-- ==== Sys2Proof/Word.lean ====
section
/-! DEFINITION. The word types of MultiPWM FRL and the four-element array that the spec writes NAME[i]
(spec/00_scope.md section 4, rule R7). -/

namespace Sys2Proof

/-- A register data word: 32 bits (rule R61). -/
abbrev Word := BitVec 32

/-- A request header: 16 bits (rule R81). -/
abbrev Header := BitVec 16

/-- A register address, and the ARG field of a header: 8 bits (rules R60, R81). -/
abbrev Addr := BitVec 8

/-- A channel mask: bit i is channel i (rules R7, R96). Also the source mask of a command register. -/
abbrev Mask := BitVec 4

/-- A channel index, 0 to 3 (rule R7, NCH = 4). -/
abbrev Chan := Fin 4

/-- The index of a discrete trigger source, 0 to 3 (rule R7). -/
abbrev Src := Fin 4

/-- The four indices in ascending order, the order of every loop of the spec (rules R151, R178, R300). -/
def allFour : List (Fin 4) := [0, 1, 2, 3]

/-- A per-channel or per-source array of four elements (the spec's NAME[i]). -/
structure Quad (α : Type) where
  e0 : α
  e1 : α
  e2 : α
  e3 : α
deriving DecidableEq, Repr

/-- The spec's read `NAME[i]`. -/
def Quad.get {α : Type} (q : Quad α) (i : Fin 4) : α :=
  match i with
  | 0 => q.e0
  | 1 => q.e1
  | 2 => q.e2
  | 3 => q.e3

/-- The spec's assignment `NAME[i] <- v`. -/
def Quad.set {α : Type} (q : Quad α) (i : Fin 4) (v : α) : Quad α :=
  match i with
  | 0 => { q with e0 := v }
  | 1 => { q with e1 := v }
  | 2 => { q with e2 := v }
  | 3 => { q with e3 := v }

/-- The array whose element i is `f i`. -/
def Quad.ofFn {α : Type} (f : Fin 4 → α) : Quad α := ⟨f 0, f 1, f 2, f 3⟩

/-- The array with one value in every element. -/
def Quad.all {α : Type} (v : α) : Quad α := ⟨v, v, v, v⟩

end Sys2Proof
end

