-- ==== Sys2Proof/Config.lean ====
section
/-! DEFINITION. What an implementation fixes (rule R7) and the free values that the spec leaves open. -/

namespace Sys2Proof.Config

/-- The value of the parameter CLOCK_HZ for this hardware (rules R7, R8; assumption log 1). Only the reset state
uses it: the meanings read the parameter of the machine that runs them. -/
def clockHz : Nat := 32000000

/-- The fitter's divisors, in search order (rules R7, R120, R121). -/
def divisors : List Nat := [1, 2, 4, 8, 64, 256, 1024]

/-- The address NOTIFY carries: EXEC_STATE in the register map (rules R100, R150, R153). -/
def execStateAddr : Addr := 0x28#8

/-- FREE VALUE `draw(PIN)` (rules R39, R255): the five pin levels of the n-th sample. Nothing constrains it
(assumption log 6). -/
opaque pinLevels : Nat → BitVec 5

/-- FREE VALUE `SCHED` (rule R276, decision D30): whose request the n-th arbitration takes, as an index into
the presented requests. Nothing constrains it (assumption log 2). -/
opaque sched : Nat → Nat

end Sys2Proof.Config
end

