-- ==== Sys2Proof/Syntax.lean ====
section
/-! DEFINITION. The syntax: requests, their issuers, and the 41 operations of spec/opcode_table.json
(rules R80, R82, R104). -/

namespace Sys2Proof

/-- One request `(hdr, data)` (rule R80). -/
structure Request where
  hdr : Header
  data : Word
deriving DecidableEq, Repr

/-- The parties that issue requests (rules R80, R276, R292). -/
inductive Issuer where
  | host
  | framework
  | timer (i : Chan)
deriving DecidableEq, Repr

/-- The operations, one constructor per row of spec/opcode_table.json. A `wr` carries the written data word;
for every other kind the data word is ignored (rule R83) and is no operand. -/
inductive Instr where
  /-- `wr FREQ[i], v` (R200) -/
  | wrFreq (i : Chan) (v : Word)
  /-- `wr DUTY[i], v` (R201) -/
  | wrDuty (i : Chan) (v : Word)
  /-- `wr COUNT[i], v` (R202) -/
  | wrCount (i : Chan) (v : Word)
  /-- `wr MODE[i], v` (R203) -/
  | wrMode (i : Chan) (v : Word)
  /-- `wr REAL_FREQ[i], v` (R213) -/
  | wrRealFreq (i : Chan) (v : Word)
  /-- `wr REAL_DUTY[i], v` (R213) -/
  | wrRealDuty (i : Chan) (v : Word)
  /-- `wr TRIG_MASK[s], v` (R204) -/
  | wrTrigMask (k : Src) (v : Word)
  /-- `wr TRIG_MODE[s], v` (R205) -/
  | wrTrigMode (k : Src) (v : Word)
  /-- `wr ALL_MODE, v` (R206) -/
  | wrAllMode (v : Word)
  /-- `wr START, v` (R207) -/
  | wrStart (v : Word)
  /-- `wr STOP, v` (R208) -/
  | wrStop (v : Word)
  /-- `wr ENABLE, v` (R209) -/
  | wrEnable (v : Word)
  /-- `wr CONFIRM, v` (R210) -/
  | wrConfirm (v : Word)
  /-- `wr SINGLE_SHOT, v` (R211) -/
  | wrSingleShot (v : Word)
  /-- `wr TRIG_STATE, v` (R213) -/
  | wrTrigState (v : Word)
  /-- `wr RUN_STATE, v` (R213) -/
  | wrRunState (v : Word)
  /-- `wr EXEC_STATE, v` (R213) -/
  | wrExecState (v : Word)
  /-- `wr EVT_EN, v` (R212) -/
  | wrEvtEn (v : Word)
  /-- `rd FREQ[i]` (R240) -/
  | rdFreq (i : Chan)
  /-- `rd DUTY[i]` (R241) -/
  | rdDuty (i : Chan)
  /-- `rd COUNT[i]` (R242) -/
  | rdCount (i : Chan)
  /-- `rd MODE[i]` (R243) -/
  | rdMode (i : Chan)
  /-- `rd REAL_FREQ[i]` (R244) -/
  | rdRealFreq (i : Chan)
  /-- `rd REAL_DUTY[i]` (R245) -/
  | rdRealDuty (i : Chan)
  /-- `rd TRIG_MASK[s]` (R246) -/
  | rdTrigMask (k : Src)
  /-- `rd TRIG_MODE[s]` (R247) -/
  | rdTrigMode (k : Src)
  /-- `rd ALL_MODE` (R248) -/
  | rdAllMode
  /-- `rd START` (R252) -/
  | rdStart
  /-- `rd STOP` (R253) -/
  | rdStop
  /-- `rd ENABLE` (R249) -/
  | rdEnable
  /-- `rd CONFIRM` (R250) -/
  | rdConfirm
  /-- `rd SINGLE_SHOT` (R251) -/
  | rdSingleShot
  /-- `rd TRIG_STATE` (R255) -/
  | rdTrigState
  /-- `rd RUN_STATE` (R256) -/
  | rdRunState
  /-- `rd EXEC_STATE` (R257) -/
  | rdExecState
  /-- `rd EVT_EN` (R254) -/
  | rdEvtEn
  /-- `edge s, lvl` (R171): `lvl = true` is HIGH -/
  | edge (k : Src) (lvl : Bool)
  /-- `edge_all lvl` (R175): `lvl = true` is HIGH -/
  | edgeAll (lvl : Bool)
  /-- `pulse i` (R160) -/
  | pulse (i : Chan)
  /-- `power_down` (R290) -/
  | powerDown
  /-- `reset` (R300) -/
  | reset
deriving DecidableEq, Repr

end Sys2Proof
end

