-- ==== Sys2Proof/Machine/State.lean ====
section
/-! DEFINITION. The state record (rules R20 to R38), the model's own fields beside it, the reset state
(spec/10_state.md section 9, rule R301), and why a step could stop (it never does, rule R270). -/

namespace Sys2Proof.Machine

/-- The channel mode (rule R24): code 0 Count, code 1 Infinite. -/
inductive ChanMode where
  | count
  | infinite
deriving DecidableEq, Repr

/-- `action_mode` of a discrete source (rule R31): code 0 StartOnly, code 1 StartAndStopOnOppositeEdge. -/
inductive TrigAction where
  | startOnly
  | startAndStop
deriving DecidableEq, Repr

/-- `action_mode` of the "all" source (rule R32), codes 0 to 3. -/
inductive AllAction where
  | triggerAll
  | triggerAllAndStop
  | enable
  | enableAndStop
deriving DecidableEq, Repr

/-- The derived values of one channel: DV_VALID, DV_PSC, DV_CT, DV_DC (rule R25), REAL_FREQ and REAL_DUTY
(rule R26). Only `update_derived` writes them, all at once (rule R124). -/
structure Derived where
  /-- DV_VALID[i] -/
  valid : Bool
  /-- DV_PSC[i], a prescaler code of rule R95 -/
  psc : BitVec 3
  /-- DV_CT[i], compare_target -/
  ct : BitVec 16
  /-- DV_DC[i], duty_compare -/
  dc : BitVec 16
  /-- REAL_FREQ[i], a binary32 pattern -/
  realFreq : Word
  /-- REAL_DUTY[i], a binary32 pattern -/
  realDuty : Word
deriving DecidableEq, Repr

/-- The latched run parameters of one channel: LT_PSC, LT_CT, LT_DC, LT_MODE (rule R36). -/
structure Latched where
  /-- LT_PSC[i] -/
  psc : BitVec 3
  /-- LT_CT[i] -/
  ct : BitVec 16
  /-- LT_DC[i] -/
  dc : BitVec 16
  /-- LT_MODE[i] -/
  mode : ChanMode
deriving DecidableEq, Repr

/-- The output events (spec/00_scope.md section 4, rule R283). -/
inductive Event where
  /-- `TMR_PROGRAM(i, psc, ct, dc)` -/
  | tmrProgram (i : Chan) (psc : BitVec 3) (ct dc : BitVec 16)
  /-- `TMR_HALT(i)` -/
  | tmrHalt (i : Chan)
  /-- `NOTIFY(addr)`, with is_event = true (rule R153) -/
  | notify (addr : Addr)
deriving DecidableEq, Repr

/-- The response `(ok, rdata)` of a request (rules R80, R84). -/
structure Response where
  ok : Bool
  rdata : Word
deriving DecidableEq, Repr

/-- A request that an issuer presents at the port and the block has not yet taken (rules R80, R276). -/
structure Presented where
  issuer : Issuer
  request : Request
deriving DecidableEq, Repr

/-- The state of the block (rule R20), then the parameter of the step and the model's own fields. -/
structure State where
  /-- FREQ[i], binary32 patterns (R21) -/
  freq : Quad Word
  /-- DUTY[i], binary32 patterns (R22) -/
  duty : Quad Word
  /-- COUNT[i] (R23) -/
  count : Quad Word
  /-- MODE[i] (R24) -/
  mode : Quad ChanMode
  /-- DV_VALID[i], DV_PSC[i], DV_CT[i], DV_DC[i] (R25), REAL_FREQ[i], REAL_DUTY[i] (R26) -/
  derived : Quad Derived
  /-- ENABLE (R27) -/
  enable : Mask
  /-- CONFIRM (R28) -/
  confirm : Mask
  /-- SSD (R29) -/
  ssd : Mask
  /-- TMASK[s] (R30) -/
  tmask : Quad Mask
  /-- TPOL[s] (R31) -/
  tpol : Quad Bool
  /-- TACT[s] (R31) -/
  tact : Quad TrigAction
  /-- APOL (R32) -/
  apol : Bool
  /-- AACT (R32) -/
  aact : AllAction
  /-- RUN (R33) -/
  run : Mask
  /-- EXEC (R34) -/
  execState : Mask
  /-- REM[i] (R35) -/
  rem : Quad Word
  /-- LT_PSC[i], LT_CT[i], LT_DC[i], LT_MODE[i] (R36) -/
  latched : Quad Latched
  /-- START_LATCH (R37) -/
  startLatch : Mask
  /-- STOP_LATCH (R37) -/
  stopLatch : Mask
  /-- EVT_EN (R38) -/
  evtEn : Bool
  /-- PARAMETER CLOCK_HZ of the step relation (rules R7, R8, R20): no element of the block's state. It stands here
  because the host's form of a step has no other argument; nothing writes it (assumption log 1) -/
  clockHz : Nat
  /-- MODEL'S OWN: the requests presented at the port, oldest first (assumption log 2) -/
  port : List Presented
  /-- MODEL'S OWN: how many requests the port has taken; the argument of the free value SCHED (log 2) -/
  arb : Nat
  /-- MODEL'S OWN: how many times the pins were sampled; the argument of the free value PIN (log 6) -/
  draws : Nat
  /-- MODEL'S OWN: the response of the last request served, none before the first (log 5) -/
  resp : Option Response
  /-- MODEL'S OWN: the output events of the last request served, in order (log 5) -/
  events : List Event
deriving DecidableEq, Repr

/-- Why a step stops with a fault. The type is empty: "The block raises no synchronous exception, trap or
fault" (rule R270). Nobody raises it; an empty type is safe, since no run can end in it. -/
inductive Fault where
deriving DecidableEq, Repr

/-- Why a step is refused. -/
inductive Refusal where
  /-- Raised only by an arm of `exec` whose instruction has no meaning yet. Every instruction of this model
  has its meaning, so nothing raises it. Safe: a refused run proves nothing about the hardware. -/
  | notModelled (mnemonic : String)
deriving DecidableEq, Repr

/-- The derived values of the default configuration at CLOCK_HZ = 32,000,000 (rules R25, R26). -/
def Derived.atReset : Derived :=
  { valid := true, psc := 5#3, ct := 50000#16, dc := 25000#16,
    realFreq := 0x41200000#32, realDuty := 0x42480000#32 }

/-- The latched run parameters at reset: all 0 (rule R36). -/
def Latched.atReset : Latched := { psc := 0#3, ct := 0#16, dc := 0#16, mode := .count }

/-- The machine right after reset at the clock of this hardware: spec/10_state.md section 9, with nothing
presented, nothing sampled and no request served yet (rule R301, assumption logs 1, 2, 5 and 6). At another
clock it is `State.resetAt`. -/
def State.reset : State :=
  { freq := .all 0x41200000#32
    duty := .all 0x42480000#32
    count := ⟨10#32, 20#32, 30#32, 40#32⟩
    mode := .all .count
    derived := .all Derived.atReset
    enable := 0x0#4
    confirm := 0x0#4
    ssd := 0x0#4
    tmask := ⟨0x1#4, 0x2#4, 0x4#4, 0x8#4⟩
    tpol := .all false
    tact := .all .startOnly
    apol := false
    aact := .triggerAll
    run := 0x0#4
    execState := 0x0#4
    rem := .all 0#32
    latched := .all Latched.atReset
    startLatch := 0x0#4
    stopLatch := 0x0#4
    evtEn := true
    clockHz := Config.clockHz
    port := []
    arb := 0
    draws := 0
    resp := none
    events := [] }

end Sys2Proof.Machine
end

