-- ==== Sys2Proof/Machine/Operands.lean ====
section
/-! DEFINITION. Operand forms: the binary32 values (R90, R200, R201), the bit-field layouts of the registers
(R91 to R98), and the width check of a write (R61). -/

namespace Sys2Proof.Machine

/-! ### Binary32 patterns (rule R90)

A finite pattern is a whole number of units of 2^-149, so exact comparisons with the spec's bounds are
comparisons of natural numbers. -/

/-- The sign bit, bit 31. -/
def signOf (b : Word) : Bool := b.getLsbD 31

/-- The biased exponent, bits 30:23. -/
def expOf (b : Word) : Nat := (b.extractLsb' 23 8).toNat

/-- The fraction, bits 22:0. -/
def fracOf (b : Word) : Nat := (b.extractLsb' 0 23).toNat

/-- `isfinite(b)`: the exponent is not all ones (spec/00_scope.md section 4). -/
def isFinite32 (b : Word) : Bool := expOf b != 255

/-- The number of units of 2^-149 in 1. -/
def unitsPerOne : Nat := 2 ^ 149

/-- The magnitude of a finite pattern in units of 2^-149. -/
def unitsOf (b : Word) : Nat :=
  if expOf b = 0 then fracOf b else (2 ^ 23 + fracOf b) * 2 ^ (expOf b - 1)

/-- `legal_freq(v)`: finite and 1/2 < val(v) <= 32768 (rule R200). -/
def legalFreq (v : Word) : Bool :=
  isFinite32 v && !signOf v && unitsPerOne < 2 * unitsOf v && unitsOf v ≤ 32768 * unitsPerOne

/-- `legal_duty(v)`: finite and 1/10 < val(v) < 999/10 (rule R201). -/
def legalDuty (v : Word) : Bool :=
  isFinite32 v && !signOf v && unitsPerOne < 10 * unitsOf v && 10 * unitsOf v < 999 * unitsPerOne

/-! ### Register field layouts -/

/-- No bit of `v` at position `width` or above is 1 (rule R61). -/
def fitsWidth (width : Nat) (v : Word) : Bool := v.toNat < 2 ^ width

/-- `v[3:0]`, a channel or source mask (rule R96). -/
def maskOf (v : Word) : Mask := v.setWidth 4

/-- MODE[i] from `v[0]` (rule R92). -/
def chanModeOf (v : Word) : ChanMode := if v.getLsbD 0 then .infinite else .count

/-- The value of a MODE register (rule R92). -/
def chanModeWord : ChanMode → Word
  | .count => 0#32
  | .infinite => 1#32

/-- TACT[s] from `v[1]` (rule R93). -/
def trigActionOf (v : Word) : TrigAction := if v.getLsbD 1 then .startAndStop else .startOnly

/-- The code of TACT[s] (rules R31, R93). -/
def trigActionCode : TrigAction → BitVec 1
  | .startOnly => 0#1
  | .startAndStop => 1#1

/-- The value of a TRIG_MODE register, `{TACT[s], TPOL[s]}` (rules R93, R247). -/
def trigModeWord (act : TrigAction) (pol : Bool) : Word :=
  (trigActionCode act ++ BitVec.ofBool pol).setWidth 32

/-- AACT from `v[1:0]` (rule R94). -/
def allActionOf (v : Word) : AllAction :=
  match v.getLsbD 1, v.getLsbD 0 with
  | false, false => .triggerAll
  | false, true => .triggerAllAndStop
  | true, false => .enable
  | true, true => .enableAndStop

/-- The code of AACT (rules R32, R94). -/
def allActionCode : AllAction → BitVec 2
  | .triggerAll => 0#2
  | .triggerAllAndStop => 1#2
  | .enable => 2#2
  | .enableAndStop => 3#2

/-- The value of the ALL_MODE register, `{APOL, AACT}` (rules R94, R248). -/
def allModeWord (pol : Bool) (act : AllAction) : Word :=
  (BitVec.ofBool pol ++ allActionCode act).setWidth 32

/-- `zext_32` of a 4-bit mask (rules R61, R96). -/
def maskWord (m : Mask) : Word := m.setWidth 32

/-- `zext_32` of the five sampled pin levels (rules R97, R255). -/
def pinWord (p : BitVec 5) : Word := p.setWidth 32

/-- The value of the EVT_EN register (rule R98). -/
def flagWord (b : Bool) : Word := (BitVec.ofBool b).setWidth 32

end Sys2Proof.Machine
end

