-- ==== Sys2Proof/Machine/Fitter.lean ====
section
/-! DEFINITION. The timer-prescaler fitter and the derivation of the timer parameters and real values
(spec/40_timer_fitter.md), at any CLOCK_HZ. Rational arithmetic is exact: a quotient a/b of natural numbers
is carried as the pair and rounded once. -/

namespace Sys2Proof.Machine

/-- `round(a/b) = floor(a/b + 1/2)`: nearest, ties up (spec/00_scope.md section 4, rules R122, R125). -/
def roundHalfUp (a b : Nat) : Nat := (2 * a + b) / (2 * b)

/-- `a/b` rounded to the nearest integer, ties to even (the rounding step of `f32`, rule R131). -/
def roundHalfEven (a b : Nat) : Nat :=
  let q := a / b
  let r := a % b
  if 2 * r < b then q else if b < 2 * r then q + 1 else q + q % 2

/-- The pattern of +infinity, where the round-to-nearest of binary32 ends (assumption log 8). -/
def plusInfinity : Nat := 0x7F800000

/-- `f32(n/d)`: binary32, to nearest, ties to even (spec/00_scope.md section 4, rule R131). The quotient is
scaled to units of 2^-149; `e` is the binary exponent of one unit in the last place of the result, and the
pattern of `m` such places is `e * 2^23 + m`. -/
def f32 (n d : Nat) : Word :=
  let x := n * unitsPerOne / d
  let e := Nat.log2 x - 23
  let m := roundHalfEven (n * unitsPerOne) (d * 2 ^ e)
  BitVec.ofNat 32 (min (e * 2 ^ 23 + m) plusInfinity)

/-- A fit: a prescaler code (rule R95) and a count. -/
structure Fit where
  psc : BitVec 3
  ct : BitVec 16
deriving DecidableEq, Repr

/-- The count at divisor `d` for a frequency of `u` units: `round(CLOCK_HZ / (d * f))` (rules R120, R122). -/
def countAt (clock u d : Nat) : Nat := roundHalfUp (clock * unitsPerOne) (d * u)

/-- The search of rule R120 from divisor number `k` on: the first divisor whose count is in 1 to 65535. -/
def fitFrom (clock u k : Nat) : List Nat → Option Fit
  | [] => none
  | d :: ds =>
    if 1 ≤ countAt clock u d ∧ countAt clock u d ≤ 65535 then
      some { psc := BitVec.ofNat 3 k, ct := BitVec.ofNat 16 (countAt clock u d) }
    else fitFrom clock u (k + 1) ds

/-- `fit(f)` for the frequency of `u` units (rules R120, R121, R123). -/
def fit (clock u : Nat) : Option Fit := fitFrom clock u 1 Config.divisors

/-- `div(psc)` (rule R95); code 0 is no divisor and reads as 0 here. -/
def divisorOf (psc : BitVec 3) : Nat := (0 :: Config.divisors).getD psc.toNat 0

/-- `round(val(DUTY) * ct / 100)` for a duty of `u` units (rule R125). -/
def dutyCompare (u ct : Nat) : Nat := roundHalfUp (u * ct) (100 * unitsPerOne)

/-- The silent derivation: infeasible fit or degenerate duty (rules R126, R127). -/
def Derived.silent : Derived :=
  { valid := false, psc := 0#3, ct := 0#16, dc := 0#16, realFreq := 0x00000000#32, realDuty := 0x00000000#32 }

/-- The derived values of a usable fit and duty compare (rules R124, R131). -/
def Derived.ofFit (clock : Nat) (r : Fit) (dc : Nat) : Derived :=
  { valid := true
    psc := r.psc
    ct := r.ct
    dc := BitVec.ofNat 16 dc
    realFreq := f32 clock (divisorOf r.psc * r.ct.toNat)
    realDuty := f32 (100 * dc) r.ct.toNat }

/-- The derived values for the outcome of `fit` and a duty of `u` units: silent when the fit is infeasible or
the duty degenerate (rules R124 to R127). -/
def deriveWith (clock : Nat) (outcome : Option Fit) (u : Nat) : Derived :=
  match outcome with
  | none => Derived.silent
  | some r =>
    let dc := dutyCompare u r.ct.toNat
    if dc = 0 ∨ r.ct.toNat ≤ dc then Derived.silent else Derived.ofFit clock r dc

/-- The result of `update_derived` for the frequency pattern `f` and the duty pattern `d` (rule R124). -/
def derive (clock : Nat) (f d : Word) : Derived := deriveWith clock (fit clock (unitsOf f)) (unitsOf d)

end Sys2Proof.Machine
end

