-- ==== Sys2Proof/Machine/Flags.lean ====
section
/-! DEFINITION. There are no condition codes (rule R44). What takes their place: the synchronisation levels
(R40), the start gate (R141) and the active-edge selection (R170). -/

namespace Sys2Proof.Machine

/-- `SYNC_CH[i] = RUN[i]` (rule R40). -/
def State.syncCh (s : State) (i : Chan) : Bool := s.run.getLsbD i

/-- `SYNC_ALL = (EXEC != 0)` (rule R40). -/
def State.syncAll (s : State) : Bool := s.execState != 0#4

/-- `start_allowed(i) = not (CONFIRM[i] = 1 and ENABLE[i] = 0)` (rule R141). -/
def State.startAllowed (s : State) (i : Chan) : Bool :=
  !(s.confirm.getLsbD i && !s.enable.getLsbD i)

/-- `active(lvl, pol) = lvl XOR pol` (rule R170). -/
def activeEdge (lvl pol : Bool) : Bool := lvl ^^ pol

end Sys2Proof.Machine
end

