-- ==== Sys2Proof/Machine/Ops.lean ====
section
/-! DEFINITION. The named operations the meanings share: serving a request, the derivation of a channel, the
start and stop primitives, batches, commands, the fold, and what POWER_DOWN and RESET share. Taking an
exception and returning from one do not exist (rules R270, R279). -/

namespace Sys2Proof.Machine

/-! ### Outputs of a request (rule R80) -/

/-- `emit E`: append E to the request's output list. -/
def State.emit (s : State) (e : Event) : State := { s with events := s.events ++ [e] }

/-- `respond(ok, rdata)`. -/
def State.respond (s : State) (ok : Bool) (rdata : Word) : State := { s with resp := some ⟨ok, rdata⟩ }

/-- The output list of a new request is empty. -/
def State.openRequest (s : State) : State := { s with events := [] }

/-- Serve one request as one atomic step (rules R9, R80). -/
def serve (s : State) (f : State → State) : Host.Outcome State Fault Refusal := .next (f s.openRequest)

/-- A host write: accepted, it has its effect and responds (1, 0); rejected, it changes nothing and responds
(0, 0) (rules R84, R214). -/
def serveWrite (legal : Bool) (s : State) (f : State → State) : Host.Outcome State Fault Refusal :=
  serve s fun t => if legal then (f t).respond true 0#32 else t.respond false 0#32

/-- A host read of a mapped address: (1, zext_32(value)) (rules R61, R84). -/
def serveRead (s : State) (value : State → Word) : Host.Outcome State Fault Refusal :=
  serve s fun t => t.respond true (value t)

/-- An illegal request: (0, 0), no state change, no event (rule R87). -/
def serveIllegal (s : State) : Host.Outcome State Fault Refusal := serve s fun t => t.respond false 0#32

/-! ### The derivation (rule R124) -/

/-- `update_derived(i)`. -/
def updateDerived (clock : Nat) (i : Chan) (s : State) : State :=
  { s with derived := s.derived.set i (derive clock (s.freq.get i) (s.duty.get i)) }

/-! ### Channels (rules R140 to R151) -/

/-- `M[i] <- 1`. -/
def setBit (m : Mask) (i : Chan) : Mask := m ||| (1#4 <<< i.val)

/-- `M[i] <- 0`. -/
def clearBit (m : Mask) (i : Chan) : Mask := m &&& ~~~(1#4 <<< i.val)

/-- What `start` latches from the derived values and the mode (rules R140, R146). -/
def Latched.ofDerived (d : Derived) (m : ChanMode) : Latched :=
  { psc := d.psc, ct := d.ct, dc := d.dc, mode := m }

/-- The event by which `start` programs timer unit i (rule R140). -/
def programEvent (d : Derived) (i : Chan) : Event := .tmrProgram i d.psc d.ct d.dc

/-- `start(i)` (rule R140): the state after it, and whether the channel changed to running. -/
def start (i : Chan) (s : State) : State × Bool :=
  if s.run.getLsbD i then (s, false)
  else if !s.startAllowed i then (s, false)
  else
    let t := { s with
      rem := s.rem.set i (s.count.get i)
      latched := s.latched.set i (Latched.ofDerived (s.derived.get i) (s.mode.get i)) }
    let t := t.emit (programEvent (s.derived.get i) i)
    ({ t with run := setBit t.run i }, true)

/-- `stop(i)` (rule R143): the state after it, and whether the channel changed to stopped. -/
def stop (i : Chan) (s : State) : State × Bool :=
  if !s.run.getLsbD i then (s, false)
  else
    let t := s.emit (.tmrHalt i)
    let t := { t with run := clearBit t.run i }
    (if t.ssd.getLsbD i then { t with enable := clearBit t.enable i } else t, true)

/-- Visit the members of the set `m` in ascending order. -/
def forMask (m : Mask) (f : Fin 4 → State → State) (s : State) : State :=
  allFour.foldl (fun t (i : Fin 4) => if m.getLsbD i.val then f i t else t) s

/-- `batch_start(M)` (rule R151). -/
def batchStart (m : Mask) (s : State) : State := forMask m (fun i t => (start i t).1) s

/-- `batch_stop(M)` (rule R151). -/
def batchStop (m : Mask) (s : State) : State := forMask m (fun i t => (stop i t).1) s

/-- `cmd_start(v)` (rule R178). -/
def cmdStart (v : Mask) (s : State) : State := forMask v (fun k t => batchStart (t.tmask.get k) t) s

/-- `cmd_stop(v)` (rule R179). -/
def cmdStop (v : Mask) (s : State) : State := forMask v (fun k t => batchStop (t.tmask.get k) t) s

/-- `fold(old)` (rule R150): EXEC follows RUN, and one NOTIFY when it changed and events are enabled. -/
def fold (old : Mask) (s : State) : State :=
  let t := { s with execState := s.run }
  if t.execState ≠ old ∧ t.evtEn = true then t.emit (.notify Config.execStateAddr) else t

/-- A request that starts or stops channels: the batch, one fold against EXEC as it was, response (1, 0)
(rules R150, R171, R175, R160). -/
def serveBatch (s : State) (f : State → State) : Host.Outcome State Fault Refusal :=
  serve s fun t => (fold s.execState (f t)).respond true 0#32

/-! ### What POWER_DOWN and RESET share (rules R290, R300) -/

/-- `for i in 0..3: if RUN[i] = 1 then emit TMR_HALT(i)`. -/
def haltRunning (s : State) : State := forMask s.run (fun i t => t.emit (.tmrHalt i)) s

/-- The reset values that RESET assigns before it re-derives (rule R300). -/
def loadDefaults (s : State) : State :=
  { s with
    freq := .all 0x41200000#32
    duty := .all 0x42480000#32
    mode := .all .count
    rem := .all 0#32
    latched := .all { psc := 0#3, ct := 0#16, dc := 0#16, mode := .count }
    count := ⟨10#32, 20#32, 30#32, 40#32⟩
    tmask := .ofFn fun k => 1#4 <<< k.val
    tpol := .all false
    tact := .all .startOnly
    apol := false
    aact := .triggerAll
    enable := 0x0#4
    confirm := 0x0#4
    ssd := 0x0#4
    run := 0x0#4
    execState := 0x0#4
    startLatch := 0x0#4
    stopLatch := 0x0#4
    evtEn := true }

/-- `for i in 0..3: update_derived(i)` (rule R300). -/
def deriveAll (clock : Nat) (s : State) : State := allFour.foldl (fun t i => updateDerived clock i t) s

/-- The initial state at any CLOCK_HZ: the reset table, with DV_* and REAL_* computed by `update_derived` at that
clock (rule R301). -/
def State.resetAt (clock : Nat) : State :=
  { State.reset with
    clockHz := clock
    derived := .all (derive clock 0x41200000#32 0x42480000#32) }

end Sys2Proof.Machine
end

