-- ==== Sys2Proof/Machine/Events.lean ====
section
/-! DEFINITION. The event requests: trigger edges (spec/42_trigger_router.md) and the pulse boundary
(spec/41_channel_loader.md section 3). -/

namespace Sys2Proof.Machine

/-- R171 `edge s, lvl`: a discrete trigger edge. -/
def execEdge (k : Src) (lvl : Bool) (s : State) : Host.Outcome State Fault Refusal :=
  serveBatch s fun t =>
    if activeEdge lvl (t.tpol.get k) then batchStart (t.tmask.get k) t
    else match t.tact.get k with
      | .startAndStop => batchStop (t.tmask.get k) t
      | .startOnly => t

/-- R175 `edge_all lvl`: an edge of the "all" source. -/
def execEdgeAll (lvl : Bool) (s : State) : Host.Outcome State Fault Refusal :=
  serveBatch s fun t =>
    let a := activeEdge lvl t.apol
    match t.aact with
    | .triggerAll => if a then batchStart 0xF#4 t else t
    | .triggerAllAndStop => if a then batchStart 0xF#4 t else batchStop 0xF#4 t
    | .enable => if a then { t with enable := 0xF#4 } else t
    | .enableAndStop => if a then { t with enable := 0xF#4 } else { t with enable := 0x0#4 }

/-- R160 `pulse i`: a pulse boundary. A stopped channel ignores it (R161); the decrement wraps (R163); the
latched mode decides whether the channel stops itself (R146). -/
def execPulse (i : Chan) (s : State) : Host.Outcome State Fault Refusal :=
  serveBatch s fun t =>
    if t.run.getLsbD i then
      let t := { t with rem := t.rem.set i (t.rem.get i - 1#32) }
      if (t.latched.get i).mode = .count ∧ t.rem.get i = 0#32 then (stop i t).1 else t
    else t

end Sys2Proof.Machine
end

