-- ==== Sys2Proof/Machine/Reads.lean ====
section
/-! DEFINITION. The 18 host reads (spec/44_register_reads.md). -/

namespace Sys2Proof.Machine

/-- R240 `rd FREQ[i]`: the pattern last accepted. -/
def execRdFreq (i : Chan) (s : State) : Host.Outcome State Fault Refusal :=
  serveRead s fun t => t.freq.get i

/-- R241 `rd DUTY[i]`. -/
def execRdDuty (i : Chan) (s : State) : Host.Outcome State Fault Refusal :=
  serveRead s fun t => t.duty.get i

/-- R242 `rd COUNT[i]`: the configured count, never REM[i]. -/
def execRdCount (i : Chan) (s : State) : Host.Outcome State Fault Refusal :=
  serveRead s fun t => t.count.get i

/-- R243 `rd MODE[i]`: not the latched LT_MODE[i]. -/
def execRdMode (i : Chan) (s : State) : Host.Outcome State Fault Refusal :=
  serveRead s fun t => chanModeWord (t.mode.get i)

/-- R244 `rd REAL_FREQ[i]`. -/
def execRdRealFreq (i : Chan) (s : State) : Host.Outcome State Fault Refusal :=
  serveRead s fun t => (t.derived.get i).realFreq

/-- R245 `rd REAL_DUTY[i]`. -/
def execRdRealDuty (i : Chan) (s : State) : Host.Outcome State Fault Refusal :=
  serveRead s fun t => (t.derived.get i).realDuty

/-- R246 `rd TRIG_MASK[s]`. -/
def execRdTrigMask (k : Src) (s : State) : Host.Outcome State Fault Refusal :=
  serveRead s fun t => maskWord (t.tmask.get k)

/-- R247 `rd TRIG_MODE[s]`. -/
def execRdTrigMode (k : Src) (s : State) : Host.Outcome State Fault Refusal :=
  serveRead s fun t => trigModeWord (t.tact.get k) (t.tpol.get k)

/-- R248 `rd ALL_MODE`. -/
def execRdAllMode (s : State) : Host.Outcome State Fault Refusal :=
  serveRead s fun t => allModeWord t.apol t.aact

/-- R252 `rd START`: returns the latch, then clears it. -/
def execRdStart (s : State) : Host.Outcome State Fault Refusal :=
  serve s fun t => { t.respond true (maskWord t.startLatch) with startLatch := 0x0#4 }

/-- R253 `rd STOP`: returns the latch, then clears it. -/
def execRdStop (s : State) : Host.Outcome State Fault Refusal :=
  serve s fun t => { t.respond true (maskWord t.stopLatch) with stopLatch := 0x0#4 }

/-- R249 `rd ENABLE`. -/
def execRdEnable (s : State) : Host.Outcome State Fault Refusal :=
  serveRead s fun t => maskWord t.enable

/-- R250 `rd CONFIRM`. -/
def execRdConfirm (s : State) : Host.Outcome State Fault Refusal :=
  serveRead s fun t => maskWord t.confirm

/-- R251 `rd SINGLE_SHOT`. -/
def execRdSingleShot (s : State) : Host.Outcome State Fault Refusal :=
  serveRead s fun t => maskWord t.ssd

/-- R255 `rd TRIG_STATE`: a fresh, free sample of the five pins (assumption log 6). It changes no state of
the block; the model's own counter of samples advances. -/
def execRdTrigState (s : State) : Host.Outcome State Fault Refusal :=
  serve s fun t => { t.respond true (pinWord (Config.pinLevels t.draws)) with draws := t.draws + 1 }

/-- R256 `rd RUN_STATE`. -/
def execRdRunState (s : State) : Host.Outcome State Fault Refusal :=
  serveRead s fun t => maskWord t.run

/-- R257 `rd EXEC_STATE`. -/
def execRdExecState (s : State) : Host.Outcome State Fault Refusal :=
  serveRead s fun t => maskWord t.execState

/-- R254 `rd EVT_EN`. -/
def execRdEvtEn (s : State) : Host.Outcome State Fault Refusal :=
  serveRead s fun t => flagWord t.evtEn

end Sys2Proof.Machine
end

