-- ==== Sys2Proof/Machine/System.lean ====
section
/-! DEFINITION. The lifecycle requests: POWER_DOWN (spec/60_exceptions.md R290) and RESET
(spec/70_reset_and_hazards.md R300). Neither notifies. -/

namespace Sys2Proof.Machine

/-- R290 `power_down`: halts the running timers and clears RUN and EXEC; ENABLE and everything else stay. -/
def execPowerDown (s : State) : Host.Outcome State Fault Refusal :=
  serve s fun t => { haltRunning t with run := 0x0#4, execState := 0x0#4 }.respond true 0#32

/-- R300 `reset`: halts the running timers and restores every element; the derivation runs last, at the
current CLOCK_HZ. -/
def execReset (s : State) : Host.Outcome State Fault Refusal :=
  serve s fun t => (deriveAll t.clockHz (loadDefaults (haltRunning t))).respond true 0#32

end Sys2Proof.Machine
end

