-- ==== Sys2Proof/Machine/Writes.lean ====
section
/-! DEFINITION. The 18 host writes (spec/43_register_writes.md). -/

namespace Sys2Proof.Machine

/-- R200 `wr FREQ[i], v`. -/
def execWrFreq (i : Chan) (v : Word) (s : State) : Host.Outcome State Fault Refusal :=
  serveWrite (legalFreq v) s fun t => updateDerived t.clockHz i { t with freq := t.freq.set i v }

/-- R201 `wr DUTY[i], v`. -/
def execWrDuty (i : Chan) (v : Word) (s : State) : Host.Outcome State Fault Refusal :=
  serveWrite (legalDuty v) s fun t => updateDerived t.clockHz i { t with duty := t.duty.set i v }

/-- R202 `wr COUNT[i], v`: rejected when v = 0; re-runs the derivation (R130). -/
def execWrCount (i : Chan) (v : Word) (s : State) : Host.Outcome State Fault Refusal :=
  serveWrite (v != 0#32) s fun t => updateDerived t.clockHz i { t with count := t.count.set i v }

/-- R203 `wr MODE[i], v`. -/
def execWrMode (i : Chan) (v : Word) (s : State) : Host.Outcome State Fault Refusal :=
  serveWrite (fitsWidth 1 v) s fun t => { t with mode := t.mode.set i (chanModeOf v) }

/-- R213 `wr REAL_FREQ[i], v`: read-only, "Always rejected, whatever `data` is". -/
def execWrRealFreq (_ : Chan) (_ : Word) (s : State) : Host.Outcome State Fault Refusal :=
  serveWrite false s id

/-- R213 `wr REAL_DUTY[i], v`: read-only. -/
def execWrRealDuty (_ : Chan) (_ : Word) (s : State) : Host.Outcome State Fault Refusal :=
  serveWrite false s id

/-- R204 `wr TRIG_MASK[s], v`. -/
def execWrTrigMask (k : Src) (v : Word) (s : State) : Host.Outcome State Fault Refusal :=
  serveWrite (fitsWidth 4 v) s fun t => { t with tmask := t.tmask.set k (maskOf v) }

/-- R205 `wr TRIG_MODE[s], v`: v[0] is TPOL, v[1] is TACT. -/
def execWrTrigMode (k : Src) (v : Word) (s : State) : Host.Outcome State Fault Refusal :=
  serveWrite (fitsWidth 2 v) s fun t =>
    { t with tpol := t.tpol.set k (v.getLsbD 0), tact := t.tact.set k (trigActionOf v) }

/-- R206 `wr ALL_MODE, v`: v[1:0] is AACT, v[2] is APOL. -/
def execWrAllMode (v : Word) (s : State) : Host.Outcome State Fault Refusal :=
  serveWrite (fitsWidth 3 v) s fun t => { t with aact := allActionOf v, apol := v.getLsbD 2 }

/-- R207 `wr START, v`: the latch, the start command, one fold. -/
def execWrStart (v : Word) (s : State) : Host.Outcome State Fault Refusal :=
  serveWrite (fitsWidth 4 v) s fun t =>
    fold s.execState (cmdStart (maskOf v) { t with startLatch := maskOf v })

/-- R208 `wr STOP, v`: the latch, the stop command, one fold. -/
def execWrStop (v : Word) (s : State) : Host.Outcome State Fault Refusal :=
  serveWrite (fitsWidth 4 v) s fun t =>
    fold s.execState (cmdStop (maskOf v) { t with stopLatch := maskOf v })

/-- R209 `wr ENABLE, v`. -/
def execWrEnable (v : Word) (s : State) : Host.Outcome State Fault Refusal :=
  serveWrite (fitsWidth 4 v) s fun t => { t with enable := maskOf v }

/-- R210 `wr CONFIRM, v`. -/
def execWrConfirm (v : Word) (s : State) : Host.Outcome State Fault Refusal :=
  serveWrite (fitsWidth 4 v) s fun t => { t with confirm := maskOf v }

/-- R211 `wr SINGLE_SHOT, v`. -/
def execWrSingleShot (v : Word) (s : State) : Host.Outcome State Fault Refusal :=
  serveWrite (fitsWidth 4 v) s fun t => { t with ssd := maskOf v }

/-- R213 `wr TRIG_STATE, v`: read-only. -/
def execWrTrigState (_ : Word) (s : State) : Host.Outcome State Fault Refusal :=
  serveWrite false s id

/-- R213 `wr RUN_STATE, v`: read-only. -/
def execWrRunState (_ : Word) (s : State) : Host.Outcome State Fault Refusal :=
  serveWrite false s id

/-- R213 `wr EXEC_STATE, v`: read-only. -/
def execWrExecState (_ : Word) (s : State) : Host.Outcome State Fault Refusal :=
  serveWrite false s id

/-- R212 `wr EVT_EN, v`: the write itself emits no NOTIFY. -/
def execWrEvtEn (v : Word) (s : State) : Host.Outcome State Fault Refusal :=
  serveWrite (fitsWidth 1 v) s fun t => { t with evtEn := v.getLsbD 0 }

end Sys2Proof.Machine
end

