-- ==== Sys2Proof/Machine/Dispatch.lean ====
section
/-! DEFINITION. One arm per operation of spec/opcode_table.json, each one call of its meaning. -/

namespace Sys2Proof.Machine

def exec (i : Instr) (s : State) : Host.Outcome State Fault Refusal :=
  match i with
  | .wrFreq c v => Sys2Proof.Machine.execWrFreq c v s
  | .wrDuty c v => Sys2Proof.Machine.execWrDuty c v s
  | .wrCount c v => Sys2Proof.Machine.execWrCount c v s
  | .wrMode c v => Sys2Proof.Machine.execWrMode c v s
  | .wrRealFreq c v => Sys2Proof.Machine.execWrRealFreq c v s
  | .wrRealDuty c v => Sys2Proof.Machine.execWrRealDuty c v s
  | .wrTrigMask k v => Sys2Proof.Machine.execWrTrigMask k v s
  | .wrTrigMode k v => Sys2Proof.Machine.execWrTrigMode k v s
  | .wrAllMode v => Sys2Proof.Machine.execWrAllMode v s
  | .wrStart v => Sys2Proof.Machine.execWrStart v s
  | .wrStop v => Sys2Proof.Machine.execWrStop v s
  | .wrEnable v => Sys2Proof.Machine.execWrEnable v s
  | .wrConfirm v => Sys2Proof.Machine.execWrConfirm v s
  | .wrSingleShot v => Sys2Proof.Machine.execWrSingleShot v s
  | .wrTrigState v => Sys2Proof.Machine.execWrTrigState v s
  | .wrRunState v => Sys2Proof.Machine.execWrRunState v s
  | .wrExecState v => Sys2Proof.Machine.execWrExecState v s
  | .wrEvtEn v => Sys2Proof.Machine.execWrEvtEn v s
  | .rdFreq c => Sys2Proof.Machine.execRdFreq c s
  | .rdDuty c => Sys2Proof.Machine.execRdDuty c s
  | .rdCount c => Sys2Proof.Machine.execRdCount c s
  | .rdMode c => Sys2Proof.Machine.execRdMode c s
  | .rdRealFreq c => Sys2Proof.Machine.execRdRealFreq c s
  | .rdRealDuty c => Sys2Proof.Machine.execRdRealDuty c s
  | .rdTrigMask k => Sys2Proof.Machine.execRdTrigMask k s
  | .rdTrigMode k => Sys2Proof.Machine.execRdTrigMode k s
  | .rdAllMode => Sys2Proof.Machine.execRdAllMode s
  | .rdStart => Sys2Proof.Machine.execRdStart s
  | .rdStop => Sys2Proof.Machine.execRdStop s
  | .rdEnable => Sys2Proof.Machine.execRdEnable s
  | .rdConfirm => Sys2Proof.Machine.execRdConfirm s
  | .rdSingleShot => Sys2Proof.Machine.execRdSingleShot s
  | .rdTrigState => Sys2Proof.Machine.execRdTrigState s
  | .rdRunState => Sys2Proof.Machine.execRdRunState s
  | .rdExecState => Sys2Proof.Machine.execRdExecState s
  | .rdEvtEn => Sys2Proof.Machine.execRdEvtEn s
  | .edge k lvl => Sys2Proof.Machine.execEdge k lvl s
  | .edgeAll lvl => Sys2Proof.Machine.execEdgeAll lvl s
  | .pulse c => Sys2Proof.Machine.execPulse c s
  | .powerDown => Sys2Proof.Machine.execPowerDown s
  | .reset => Sys2Proof.Machine.execReset s

end Sys2Proof.Machine
end

