-- ==== Sys2Proof/Machine/Header.lean ====
section
/-! DEFINITION. The fields of a request header (rules R81, R86): how they are cut out and how a header is
put together. -/

namespace Sys2Proof

/-- KIND, bits 15:13 (rule R81). -/
def kindOf (h : Header) : BitVec 3 := h.extractLsb' 13 3

/-- RSV, bits 12:9 (rule R81). -/
def rsvOf (h : Header) : BitVec 4 := h.extractLsb' 9 4

/-- LVL, bit 8 (rule R81): true is HIGH. -/
def lvlOf (h : Header) : Bool := h.getLsbD 8

/-- ARG, bits 7:0 (rule R81). -/
def argOf (h : Header) : Addr := h.extractLsb' 0 8

/-- `arg[1:0]`: the channel or source index (rule R86). -/
def indexOf (a : Addr) : Fin 4 := (a.extractLsb' 0 2).toFin

/-- `arg[7:2]`: the register group of addresses 0x00 to 0x1F, and the bits an index leaves zero (rule R86). -/
def groupOf (a : Addr) : BitVec 6 := a.extractLsb' 2 6

/-- The header with RSV zero and the given KIND, LVL and ARG (rule R81). -/
def mkHeader (kind : BitVec 3) (lvl : Bool) (arg : Addr) : Header :=
  kind ++ 0#4 ++ BitVec.ofBool lvl ++ arg

/-- The address of element i of a register group whose first address is `base` (rule R100). -/
def elemAddr (base : Addr) (i : Fin 4) : Addr := base + BitVec.ofNat 8 i.val

end Sys2Proof
end

