-- ==== Sys2Proof/WellFormed.lean ====
section
/-! DEFINITION. Which request headers are legal: the list of rule R87, one check per line of it, written
apart from the decoder (rule R85). Operands of `Instr` are typed (a channel is a `Fin 4`, a level a `Bool`,
a data word 32 bits), so every term of `Instr` is well formed; what can be ill formed is a request. -/

namespace Sys2Proof

/-- "every header with RSV != 0" is illegal. -/
def rsvClear (h : Header) : Bool := rsvOf h == 0#4

/-- "KIND = 7" is illegal. -/
def kindDefined (h : Header) : Bool := kindOf h != 7#3

/-- LVL may be 1 only for the edge kinds 2 and 3. -/
def levelAllowed (h : Header) : Bool := !lvlOf h || kindOf h == 2#3 || kindOf h == 3#3

/-- "WR or RD with ... an address above 0x29" is illegal (also rule R101). -/
def addressMapped (h : Header) : Bool :=
  !(kindOf h == 0#3 || kindOf h == 1#3) || (argOf h).toNat ≤ 0x29

/-- "EDGE with ARG[7:2] != 0" and "PULSE with ... ARG[7:2] != 0" are illegal. -/
def indexInRange (h : Header) : Bool :=
  !(kindOf h == 2#3 || kindOf h == 4#3) || (argOf h).toNat < 4

/-- "EDGE_ALL with ARG != 0" and "POWER_DOWN or RESET with ... ARG != 0" are illegal. -/
def argClear (h : Header) : Bool :=
  !(kindOf h == 3#3 || kindOf h == 5#3 || kindOf h == 6#3) || argOf h == 0#8

/-- A request is well formed when its header is none of the illegal headers of rule R87. Any data word is
allowed (rules R83, R89). -/
def Request.wellFormed (r : Request) : Bool :=
  rsvClear r.hdr && kindDefined r.hdr && levelAllowed r.hdr && addressMapped r.hdr
    && indexInRange r.hdr && argClear r.hdr

end Sys2Proof
end

