-- ==== Sys2Proof/Decode.lean ====
section
/-! DEFINITION. The decoder of rule R85, total over all headers, rejecting by name; then the encoder
(rules R100, R102), written from the same tables. -/

namespace Sys2Proof

/-- Why a header decodes to ILLEGAL (rules R85, R87). -/
inductive Illegal where
  /-- RSV is not 0 -/
  | reservedBits
  /-- KIND = 7 -/
  | reservedKind
  /-- LVL = 1 for a kind that is no edge -/
  | levelBit
  /-- WR or RD of an address above 0x29 (R101) -/
  | unmappedAddress
  /-- ARG bits that the kind requires to be 0 are not 0 -/
  | argument
deriving DecidableEq, Repr

/-- `WR_<register at arg>` (rules R85, R100): `g` is the group ARG[7:2], `k` the index ARG[1:0]. -/
def decodeWrite (arg : Addr) (v : Word) : Except Illegal Instr :=
  let k := indexOf arg
  match (groupOf arg).toNat with
  | 0 => .ok (.wrFreq k v)
  | 1 => .ok (.wrDuty k v)
  | 2 => .ok (.wrCount k v)
  | 3 => .ok (.wrMode k v)
  | 4 => .ok (.wrRealFreq k v)
  | 5 => .ok (.wrRealDuty k v)
  | 6 => .ok (.wrTrigMask k v)
  | 7 => .ok (.wrTrigMode k v)
  | _ =>
    match arg.toNat with
    | 0x20 => .ok (.wrAllMode v)
    | 0x21 => .ok (.wrStart v)
    | 0x22 => .ok (.wrStop v)
    | 0x23 => .ok (.wrEnable v)
    | 0x24 => .ok (.wrConfirm v)
    | 0x25 => .ok (.wrSingleShot v)
    | 0x26 => .ok (.wrTrigState v)
    | 0x27 => .ok (.wrRunState v)
    | 0x28 => .ok (.wrExecState v)
    | 0x29 => .ok (.wrEvtEn v)
    | _ => .error .unmappedAddress

/-- `RD_<register at arg>` (rules R85, R100). -/
def decodeRead (arg : Addr) : Except Illegal Instr :=
  let k := indexOf arg
  match (groupOf arg).toNat with
  | 0 => .ok (.rdFreq k)
  | 1 => .ok (.rdDuty k)
  | 2 => .ok (.rdCount k)
  | 3 => .ok (.rdMode k)
  | 4 => .ok (.rdRealFreq k)
  | 5 => .ok (.rdRealDuty k)
  | 6 => .ok (.rdTrigMask k)
  | 7 => .ok (.rdTrigMode k)
  | _ =>
    match arg.toNat with
    | 0x20 => .ok .rdAllMode
    | 0x21 => .ok .rdStart
    | 0x22 => .ok .rdStop
    | 0x23 => .ok .rdEnable
    | 0x24 => .ok .rdConfirm
    | 0x25 => .ok .rdSingleShot
    | 0x26 => .ok .rdTrigState
    | 0x27 => .ok .rdRunState
    | 0x28 => .ok .rdExecState
    | 0x29 => .ok .rdEvtEn
    | _ => .error .unmappedAddress

/-- `decode(hdr)` of rule R85. The data word is the operand of a `wr` and is ignored otherwise (rule R83). -/
def decode (r : Request) : Except Illegal Instr :=
  let lvl := lvlOf r.hdr
  let arg := argOf r.hdr
  if rsvOf r.hdr ≠ 0#4 then .error .reservedBits
  else match (kindOf r.hdr).toNat with
  | 0 => if lvl then .error .levelBit else decodeWrite arg r.data
  | 1 => if lvl then .error .levelBit else decodeRead arg
  | 2 => if groupOf arg ≠ 0#6 then .error .argument else .ok (.edge (indexOf arg) lvl)
  | 3 => if arg ≠ 0#8 then .error .argument else .ok (.edgeAll lvl)
  | 4 =>
    if lvl then .error .levelBit
    else if groupOf arg ≠ 0#6 then .error .argument else .ok (.pulse (indexOf arg))
  | 5 => if lvl then .error .levelBit else if arg ≠ 0#8 then .error .argument else .ok .powerDown
  | 6 => if lvl then .error .levelBit else if arg ≠ 0#8 then .error .argument else .ok .reset
  | _ => .error .reservedKind

/-- The request of `wr` at address `a` with data `v` (rule R102: hdr = 0x0000 + addr). -/
def wrRequest (a : Addr) (v : Word) : Request := ⟨mkHeader 0#3 false a, v⟩

/-- The request of `rd` at address `a` (rule R102: hdr = 0x2000 + addr, data = 0). -/
def rdRequest (a : Addr) : Request := ⟨mkHeader 1#3 false a, 0#32⟩

/-- The request of an operation, from the register map (rule R100) and the syntax table (rule R102). -/
def encode (i : Instr) : Request :=
  match i with
  | .wrFreq k v => wrRequest (elemAddr 0x00#8 k) v
  | .wrDuty k v => wrRequest (elemAddr 0x04#8 k) v
  | .wrCount k v => wrRequest (elemAddr 0x08#8 k) v
  | .wrMode k v => wrRequest (elemAddr 0x0C#8 k) v
  | .wrRealFreq k v => wrRequest (elemAddr 0x10#8 k) v
  | .wrRealDuty k v => wrRequest (elemAddr 0x14#8 k) v
  | .wrTrigMask k v => wrRequest (elemAddr 0x18#8 k) v
  | .wrTrigMode k v => wrRequest (elemAddr 0x1C#8 k) v
  | .wrAllMode v => wrRequest 0x20#8 v
  | .wrStart v => wrRequest 0x21#8 v
  | .wrStop v => wrRequest 0x22#8 v
  | .wrEnable v => wrRequest 0x23#8 v
  | .wrConfirm v => wrRequest 0x24#8 v
  | .wrSingleShot v => wrRequest 0x25#8 v
  | .wrTrigState v => wrRequest 0x26#8 v
  | .wrRunState v => wrRequest 0x27#8 v
  | .wrExecState v => wrRequest 0x28#8 v
  | .wrEvtEn v => wrRequest 0x29#8 v
  | .rdFreq k => rdRequest (elemAddr 0x00#8 k)
  | .rdDuty k => rdRequest (elemAddr 0x04#8 k)
  | .rdCount k => rdRequest (elemAddr 0x08#8 k)
  | .rdMode k => rdRequest (elemAddr 0x0C#8 k)
  | .rdRealFreq k => rdRequest (elemAddr 0x10#8 k)
  | .rdRealDuty k => rdRequest (elemAddr 0x14#8 k)
  | .rdTrigMask k => rdRequest (elemAddr 0x18#8 k)
  | .rdTrigMode k => rdRequest (elemAddr 0x1C#8 k)
  | .rdAllMode => rdRequest 0x20#8
  | .rdStart => rdRequest 0x21#8
  | .rdStop => rdRequest 0x22#8
  | .rdEnable => rdRequest 0x23#8
  | .rdConfirm => rdRequest 0x24#8
  | .rdSingleShot => rdRequest 0x25#8
  | .rdTrigState => rdRequest 0x26#8
  | .rdRunState => rdRequest 0x27#8
  | .rdExecState => rdRequest 0x28#8
  | .rdEvtEn => rdRequest 0x29#8
  | .edge k lvl => ⟨mkHeader 2#3 lvl (elemAddr 0#8 k), 0#32⟩
  | .edgeAll lvl => ⟨mkHeader 3#3 lvl 0#8, 0#32⟩
  | .pulse k => ⟨mkHeader 4#3 false (elemAddr 0#8 k), 0#32⟩
  | .powerDown => ⟨mkHeader 5#3 false 0#8, 0#32⟩
  | .reset => ⟨mkHeader 6#3 false 0#8, 0#32⟩

/-- The issuer column of rule R82. KIND 7 has none; a request of any kind may come from any issuer
(rule R281), so this only names the usual one. -/
def usualIssuer (h : Header) : Issuer :=
  match (kindOf h).toNat with
  | 0 => .host
  | 1 => .host
  | 4 => .timer (indexOf (argOf h))
  | _ => .framework

/-- The request whose bits are `w`, numbered as spec/opcode_table.json numbers them: the header is bits 15:0
and the data word bits 47:16; bits at `nbits` and above are 0. -/
def requestOfBits (nbits w : Nat) : Request :=
  let b := w % 2 ^ nbits
  ⟨BitVec.ofNat 16 b, BitVec.ofNat 32 (b / 2 ^ 16)⟩

/-- The instruction the decoder reads from those bits; none where it refuses. -/
def decodeTableWord (nbits w : Nat) : Option Instr :=
  match decode (requestOfBits nbits w) with
  | .ok i => some i
  | .error _ => none

end Sys2Proof
end

