-- ==== Sys2Proof/Machine/Port.lean ====
section
/-! DEFINITION. The request port (rules R80, R276): which presented request the block takes next. -/

namespace Sys2Proof.Machine

/-- The oldest request that issuer `who` presents, and what stays at the port. -/
def takeFrom (who : Issuer) : List Presented → Option (Request × List Presented)
  | [] => none
  | p :: ps =>
    if p.issuer = who then some (p.request, ps)
    else (takeFrom who ps).map fun x => (x.1, p :: x.2)

/-- The issuer the port serves next: the only one presenting, or the one the free value SCHED picks. -/
def nextIssuer (n : Nat) (p : Presented) (ps : List Presented) : Issuer :=
  match ps with
  | [] => p.issuer
  | _ :: _ => ((p :: ps).getD (Config.sched n % (p :: ps).length) p).issuer

/-- Take one request: "requests from one issuer are taken in the order it issues them", and the order
between issuers is open (rule R276). None when nothing is presented. -/
def takeRequest (s : State) : Option (Request × State) :=
  match s.port with
  | [] => none
  | p :: ps =>
    (takeFrom (nextIssuer s.arb p ps) (p :: ps)).map fun x =>
      (x.1, { s with port := x.2, arb := s.arb + 1 })

/-- The port with one request presented, by its usual issuer (rule R82). -/
def presentOnly (r : Request) (s : State) : State := { s with port := [⟨usualIssuer r.hdr, r⟩] }

end Sys2Proof.Machine
end

