-- ==== Sys2Proof/Machine/Step.lean ====
section
/-! DEFINITION. One step: the port takes one request, the decoder reads it, its meaning runs (rules R9, R69,
R80, R276). -/

namespace Sys2Proof.Machine

/-- One step. With nothing presented the block does nothing (assumption log 3); an illegal request is
answered and changes nothing (rule R87). -/
def step (s : State) : Host.Outcome State Fault Refusal :=
  match takeRequest s with
  | none => .next s
  | some (r, t) =>
    match decode r with
    | .ok i => exec i t
    | .error _ => serveIllegal t

/-- The step relation with the parameter CLOCK_HZ as its argument (rules R7, R20). -/
def stepAt (clock : Nat) (s : State) : Host.Outcome State Fault Refusal := step { s with clockHz := clock }

/-- `s` with the one request of those bits presented at the port, so that the next step takes it
(assumption log 4). -/
def State.withFetchWord (s : State) (nbits w : Nat) : State := presentOnly (requestOfBits nbits w) s

end Sys2Proof.Machine
end

