-- ==== Sys2Proof/Machine/Exact.lean ====
section
/-! DEFINITION. The spec's own words over the rationals, which the claims compare the model with: the value of
a binary32 pattern, `round`, the count at a divisor, the duty compare (spec/00_scope.md section 4, rules R90,
R120, R125). The model itself computes with natural numbers (Operands, Fitter). -/

namespace Sys2Proof.Machine

/-- `isfinite(b)`: not one of the exponent-all-ones patterns. -/
def FinitePattern (b : Word) : Prop := b.extractLsb' 23 8 ≠ 255#8

/-- `val(b)`: bit 31 sign, bits 30:23 biased exponent, bits 22:0 fraction (rule R90). -/
def exactVal (b : Word) : ℚ :=
  let sign : ℚ := if b.getLsbD 31 then -1 else 1
  let e := (b.extractLsb' 23 8).toNat
  let m : ℚ := (b.extractLsb' 0 23).toNat
  if e = 0 then sign * m / 2 ^ 149 else sign * (1 + m / 2 ^ 23) * (2 : ℚ) ^ ((e : ℤ) - 127)

/-- `round(q) = floor(q + 1/2)` (spec/00_scope.md section 4). -/
def exactRound (q : ℚ) : ℤ := ⌊q + 1 / 2⌋

/-- The k-th divisor of the search order, k from 0 (rule R120). -/
def nthDivisor (k : Fin 7) : ℕ := Config.divisors.getD k.val 0

/-- `round(CLOCK_HZ / (d * f))` at divisor number k (rule R120). -/
def exactCount (clock : ℕ) (f : ℚ) (k : Fin 7) : ℤ := exactRound (clock / (nthDivisor k * f))

/-- "1 <= c and c <= 65535" (rule R120). -/
def CountFits (c : ℤ) : Prop := 1 ≤ c ∧ c ≤ 65535

/-- `fit(f) = Some(psc, ct)` in the words of rule R120: the first divisor, in order, whose count fits. -/
def ExactFit (clock : ℕ) (f : ℚ) (r : Fit) : Prop :=
  ∃ k : Fin 7, CountFits (exactCount clock f k) ∧ (∀ j < k, ¬ CountFits (exactCount clock f j)) ∧
    r.psc.toNat = k.val + 1 ∧ (r.ct.toNat : ℤ) = exactCount clock f k

/-- `round(d * c / 100)` (rules R124, R125). -/
def exactDuty (d : ℚ) (c : ℕ) : ℤ := exactRound (d * c / 100)

/-- The pattern `b` is `f32(q)`: no finite non-negative pattern is nearer to q, and where another one is as
near, b is the even one (spec/00_scope.md section 4). -/
def IsNearest (q : ℚ) (b : Word) : Prop :=
  FinitePattern b ∧ b.getLsbD 31 = false ∧
    ∀ p : Word, FinitePattern p → p.getLsbD 31 = false →
      |exactVal b - q| ≤ |exactVal p - q| ∧
      (p ≠ b → |exactVal b - q| = |exactVal p - q| → b.getLsbD 0 = false)

/-- The band threshold `T_k = CLOCK_HZ / (65535.5 * DIVISORS[k-1])`, k from 0 for the first divisor
(rule R129). -/
def bandEdge (clock : ℕ) (k : Fin 7) : ℚ := clock / (65535.5 * nthDivisor k)

end Sys2Proof.Machine
end

