-- ==== Sys2Proof/Safety.lean ====
section
/-! DEFINITION. The terms the claims are stated in: which channels a batch starts or stops and what state
that leaves, what the timer units are told, and the invariants of the block. -/

namespace Sys2Proof.Machine

/-! ### Batches in closed form -/

/-- The members of a mask, in ascending order. -/
def members (m : Mask) : List Chan := allFour.filter fun i => m.getLsbD i.val

/-- The masked channels that a start attempt changes: not running and not gated off (rules R140, R141). -/
def startable (m : Mask) (s : State) : Mask := m &&& ~~~s.run &&& ~~~(s.confirm &&& ~~~s.enable)

/-- The masks of the discrete sources that a command value selects, in source order (rules R178, R179). -/
def selectedMasks (v : Mask) (s : State) : List Mask := (members v).map fun k => s.tmask.get k

/-- All channels that one of the masks names. -/
def unionOf (ms : List Mask) : Mask := ms.foldr (fun m acc => m ||| acc) 0#4

/-- The channels that the masks name, each at its first visit: mask by mask, ascending inside a mask;
the channels of `seen` are left out. -/
def visitOrder (seen : Mask) : List Mask → List Chan
  | [] => []
  | m :: ms => members (m &&& ~~~seen) ++ visitOrder (seen ||| m) ms

/-- Element i from `new` where bit i of `m` is 1, from `old` elsewhere. -/
def pick {α : Type} (m : Mask) (new old : Quad α) : Quad α :=
  .ofFn fun i => if m.getLsbD i.val then new.get i else old.get i

/-- What each channel's next start would latch (rules R140, R146). -/
def nextLatched (s : State) : Quad Latched :=
  .ofFn fun i => Latched.ofDerived (s.derived.get i) (s.mode.get i)

/-- The NOTIFY of a request that leaves RUN = `run'`: one, when EXEC changes and events are enabled
(rule R150). -/
def notifyFor (run' : Mask) (s : State) : List Event :=
  if run' ≠ s.execState ∧ s.evtEn = true then [.notify 0x28#8] else []

/-- The state after an accepted request that starts exactly the channels of `g`, visited in the order
`visits`. -/
def afterStarts (g : Mask) (visits : List Chan) (s : State) : State :=
  { s with
    run := s.run ||| g
    execState := s.run ||| g
    rem := pick g s.count s.rem
    latched := pick g (nextLatched s) s.latched
    events := visits.map (fun i => programEvent (s.derived.get i) i) ++ notifyFor (s.run ||| g) s
    resp := some ⟨true, 0#32⟩ }

/-- The state after an accepted request that stops exactly the channels of `g`, visited in the order
`visits`; a single-shot channel loses its ENABLE bit (rule R144). -/
def afterStops (g : Mask) (visits : List Chan) (s : State) : State :=
  { s with
    run := s.run &&& ~~~g
    execState := s.run &&& ~~~g
    enable := s.enable &&& ~~~(g &&& s.ssd)
    events := visits.map Event.tmrHalt ++ notifyFor (s.run &&& ~~~g) s
    resp := some ⟨true, 0#32⟩ }

/-- The state after an accepted request that starts and stops nothing and then folds. -/
def afterFoldOnly (s : State) : State :=
  { s with execState := s.run, events := notifyFor s.run s, resp := some ⟨true, 0#32⟩ }

/-- The state after a request that responds `(ok, rdata)` and emits nothing. -/
def answered (ok : Bool) (rdata : Word) (s : State) : State :=
  { s with events := [], resp := some ⟨ok, rdata⟩ }

/-! ### What the timer units are told (rules R33, R164) -/

/-- Whether an event is a notification. -/
def Event.isNotify : Event → Bool
  | .notify _ => true
  | .tmrProgram _ _ _ _ => false
  | .tmrHalt _ => false

/-- The active flags of the timer units after an event: active from TMR_PROGRAM to TMR_HALT (rule R164). -/
def timersAfter (active : Mask) : Event → Mask
  | .tmrProgram i _ _ _ => setBit active i
  | .tmrHalt i => clearBit active i
  | .notify _ => active

/-- Whether a timer event names channel j; a notification names none. -/
def Event.names (j : Chan) : Event → Bool
  | .tmrProgram i _ _ _ => i == j
  | .tmrHalt i => i == j
  | .notify _ => false

/-! ### Kinds of instructions -/

/-- A host write (KIND 0). -/
def isWrite (i : Instr) : Prop := kindOf (encode i).hdr = 0#3

/-- An edge of the "all" source in one of its Enable modes (rule R176). -/
def EnableModeEdge (i : Instr) (s : State) : Prop :=
  (∃ lvl, i = .edgeAll lvl) ∧ (s.aact = .enable ∨ s.aact = .enableAndStop)

/-- The operations that end with a fold (rule R150). -/
def Folds : Instr → Prop
  | .edge _ _ | .edgeAll _ | .pulse _ | .wrStart _ | .wrStop _ => True
  | _ => False

/-- The read that returns what a write to a writable register wrote, and the written value. -/
def readBack : Instr → Option (Instr × Word)
  | .wrFreq i v => some (.rdFreq i, v)
  | .wrDuty i v => some (.rdDuty i, v)
  | .wrCount i v => some (.rdCount i, v)
  | .wrMode i v => some (.rdMode i, v)
  | .wrTrigMask k v => some (.rdTrigMask k, v)
  | .wrTrigMode k v => some (.rdTrigMode k, v)
  | .wrAllMode v => some (.rdAllMode, v)
  | .wrStart v => some (.rdStart, v)
  | .wrStop v => some (.rdStop, v)
  | .wrEnable v => some (.rdEnable, v)
  | .wrConfirm v => some (.rdConfirm, v)
  | .wrSingleShot v => some (.rdSingleShot, v)
  | .wrEvtEn v => some (.rdEvtEn, v)
  | _ => none

/-- The state after n requests `pulse i`, one after another. -/
def afterPulses (i : Chan) : Nat → State → State
  | 0, s => s
  | n + 1, s =>
    match exec (.pulse i) s with
    | .next t => afterPulses i n t
    | .fault _ => s
    | .refused _ => s

/-! ### Invariants -/

/-- What holds of the block between requests, at any clock: CLOCK_HZ is positive (rule R7), EXEC = RUN (rule
R41), the configuration is legal (rules R21 to R23), the derived values are those of the configuration (rules
R25, R26, R130), and a running Count channel has pulses left (rules R160, R162). -/
structure WellState (s : State) : Prop where
  clockPositive : 0 < s.clockHz
  execIsRun : s.execState = s.run
  freqLegal : ∀ i, legalFreq (s.freq.get i) = true
  dutyLegal : ∀ i, legalDuty (s.duty.get i) = true
  countNonzero : ∀ i, s.count.get i ≠ 0#32
  derivedCurrent : ∀ i, s.derived.get i = derive s.clockHz (s.freq.get i) (s.duty.get i)
  pulsesLeft : ∀ i, s.run.getLsbD i.val = true → (s.latched.get i).mode = .count → s.rem.get i ≠ 0#32

/-- Timer parameters of a usable pulse: a clocked prescaler and a duty compare strictly inside the count
(rules R126, R128). -/
def UsablePulse (psc : BitVec 3) (ct dc : BitVec 16) : Prop :=
  psc ≠ 0#3 ∧ 0 < dc.toNat ∧ dc.toNat < ct.toNat

/-- Every running channel was programmed with a usable pulse. -/
def RunsUsablePulses (s : State) : Prop :=
  ∀ i, s.run.getLsbD i.val = true →
    UsablePulse (s.latched.get i).psc (s.latched.get i).ct (s.latched.get i).dc

end Sys2Proof.Machine
end

