-- ==== Sys2Proof/Certificates/Slice0/Obligations.lean ====
section
/-! DEFINITION. The statements for the provers. "Result" statements give the whole next state, so they are the
instruction's result, its frame and its completion at once: a field that the record update does not name is
unchanged. `answered ok w s` is `s` with the response (ok, w) and no event. -/

open Sys2Proof Sys2Proof.Machine

/-! ## Steps, port, decoding -/

/-- R9, R80, R276: when the port takes a request that decodes to an instruction, the step is that
instruction's meaning, run on the state that differs only in the port and in the model's own count of
requests taken. -/
def Obligations.StepRunsTheDecodedRequest : Prop :=
  ∀ (s t : State) (r : Request) (i : Instr), takeRequest s = some (r, t) → decode r = .ok i →
    step s = exec i t ∧ t = { s with port := t.port, arb := s.arb + 1 }

/-- The one request presented by `withFetchWord` is the one the next step takes: the step runs the instruction
the decoder reads from the same bits. The port's form is the model's choice (assumption log 4). -/
def Obligations.PresentedWordRunsNext : Prop :=
  ∀ (s : State) (nbits w : Nat) (i : Instr), decodeTableWord nbits w = some i →
    step (s.withFetchWord nbits w) = exec i { s with port := [], arb := s.arb + 1 }

/-- R87: a request with a header of its list responds (0, 0), changes no state of the block and emits no
event. That it responds so is the spec's decision D25. -/
def Obligations.IllegalRequestRespondsAndChangesNothing : Prop :=
  ∀ (s t : State) (r : Request), takeRequest s = some (r, t) →
    (rsvOf r.hdr ≠ 0#4 ∨ kindOf r.hdr = 7#3 ∨
      ((kindOf r.hdr = 0#3 ∨ kindOf r.hdr = 1#3) ∧ (lvlOf r.hdr = true ∨ 0x29 < (argOf r.hdr).toNat)) ∨
      (kindOf r.hdr = 2#3 ∧ 4 ≤ (argOf r.hdr).toNat) ∨
      (kindOf r.hdr = 3#3 ∧ argOf r.hdr ≠ 0#8) ∨
      (kindOf r.hdr = 4#3 ∧ (lvlOf r.hdr = true ∨ 4 ≤ (argOf r.hdr).toNat)) ∨
      ((kindOf r.hdr = 5#3 ∨ kindOf r.hdr = 6#3) ∧ (lvlOf r.hdr = true ∨ argOf r.hdr ≠ 0#8))) →
    step s = .next (answered false 0#32 { s with port := t.port, arb := s.arb + 1 })

/-- R85, R104: a header decodes to an operation exactly when it is none of the illegal headers of R87. The
encoding is the spec's decision D2. -/
def Obligations.HeaderDecodesExactlyWhenLegal : Prop :=
  ∀ r : Request, (∃ i, decode r = .ok i) ↔ r.wellFormed = true

/-- R276: the port never waits while something is presented, it takes one issuer's oldest request, and every
issuer's other requests keep their order. That a step with nothing presented changes nothing is the model's
choice (assumption log 3), and so is the form of the port (log 2). -/
def Obligations.PortKeepsEachIssuersOrder : Prop :=
  ∀ s : State, (s.port = [] → step s = .next s) ∧
    (s.port ≠ [] → ∃ (w : Issuer) (r : Request) (t : State), takeRequest s = some (r, t) ∧
      s.port.filter (fun p => p.issuer = w) = ⟨w, r⟩ :: t.port.filter (fun p => p.issuer = w) ∧
      (∀ w', w' ≠ w → s.port.filter (fun p => p.issuer = w') = t.port.filter (fun p => p.issuer = w')) ∧
      t = { s with port := t.port, arb := s.arb + 1 })

/-- R270, R73: every step answers a next state, and a step that takes a request leaves a response. -/
def Obligations.EveryRequestCompletesWithAResponse : Prop :=
  ∀ s : State, (∃ t, step s = .next t) ∧
    (s.port ≠ [] → ∀ t, step s = .next t → ∃ ok rdata, t.resp = some ⟨ok, rdata⟩)

/-- Headers written out from the spec's encodings (R81, R82, R100, R102) decode to the operations they stand
for. The encodings are the spec's decisions D2, D3 and D40. -/
def Obligations.SpecHeadersDecode : Prop :=
  decode ⟨0x0001#16, 0x447A0000#32⟩ = .ok (.wrFreq 1 0x447A0000#32) ∧
  decode ⟨0x001D#16, 3#32⟩ = .ok (.wrTrigMode 1 3#32) ∧
  decode ⟨0x0021#16, 3#32⟩ = .ok (.wrStart 3#32) ∧
  decode ⟨0x2028#16, 0#32⟩ = .ok .rdExecState ∧
  decode ⟨0x4102#16, 0#32⟩ = .ok (.edge 2 true) ∧
  decode ⟨0x6000#16, 0#32⟩ = .ok (.edgeAll false) ∧
  decode ⟨0x8003#16, 0#32⟩ = .ok (.pulse 3) ∧
  decode ⟨0xA000#16, 0#32⟩ = .ok .powerDown ∧
  decode ⟨0xC000#16, 0#32⟩ = .ok .reset ∧
  decode ⟨0x202A#16, 0#32⟩ = .error .unmappedAddress ∧
  decode ⟨0xE000#16, 0#32⟩ = .error .reservedKind

/-- Decode and encode agree on every instruction, with every operand at every value. -/
def Obligations.DecodeOfEncodeIsTheInstruction : Prop :=
  ∀ i : Instr, decode (encode i) = .ok i

/-- The other direction: a request that decodes is the encoding of what it decodes to, in its header always
and in its data word when it is a write (R83: the others ignore the data word). The encoding is the spec's
decision D2. -/
def Obligations.EncodeOfDecodeIsTheRequest : Prop :=
  ∀ (r : Request) (i : Instr), decode r = .ok i →
    (encode i).hdr = r.hdr ∧ (kindOf r.hdr = 0#3 → (encode i).data = r.data) ∧
      (kindOf r.hdr ≠ 0#3 → (encode i).data = 0#32)

/-- R83: for every kind but WR the data word has no effect: any value gives the same step. This is the spec's
decision D2. -/
def Obligations.DataWordIsIgnoredUnlessWrite : Prop :=
  ∀ (s : State) (who : Issuer) (h : Header) (d e : Word), kindOf h ≠ 0#3 →
    step { s with port := [⟨who, ⟨h, d⟩⟩] } = step { s with port := [⟨who, ⟨h, e⟩⟩] }

/-! ## Register writes -/

/-- R200: `wr FREQ[i], v`. The comparison with the bounds on the exact value is the spec's decision D6. -/
def Obligations.WriteFreqResult : Prop :=
  ∀ (i : Chan) (v : Word) (s : State),
    decode ⟨BitVec.ofNat 16 (0x0000 + i.val), v⟩ = .ok (.wrFreq i v) ∧
    ((FinitePattern v ∧ 1 / 2 < exactVal v ∧ exactVal v ≤ 32768) →
      exec (.wrFreq i v) s = .next (answered true 0#32 { s with
        freq := s.freq.set i v
        derived := s.derived.set i (derive s.clockHz v (s.duty.get i)) })) ∧
    (¬ (FinitePattern v ∧ 1 / 2 < exactVal v ∧ exactVal v ≤ 32768) →
      exec (.wrFreq i v) s = .next (answered false 0#32 s))

/-- R201: `wr DUTY[i], v`. The comparison with the bounds on the exact value is the spec's decision D6. -/
def Obligations.WriteDutyResult : Prop :=
  ∀ (i : Chan) (v : Word) (s : State),
    decode ⟨BitVec.ofNat 16 (0x0004 + i.val), v⟩ = .ok (.wrDuty i v) ∧
    ((FinitePattern v ∧ 1 / 10 < exactVal v ∧ exactVal v < 999 / 10) →
      exec (.wrDuty i v) s = .next (answered true 0#32 { s with
        duty := s.duty.set i v
        derived := s.derived.set i (derive s.clockHz (s.freq.get i) v) })) ∧
    (¬ (FinitePattern v ∧ 1 / 10 < exactVal v ∧ exactVal v < 999 / 10) →
      exec (.wrDuty i v) s = .next (answered false 0#32 s))

/-- R202: `wr COUNT[i], v`. The derivation is re-run and, where it was current, changes nothing. -/
def Obligations.WriteCountResult : Prop :=
  ∀ (i : Chan) (v : Word) (s : State),
    decode ⟨BitVec.ofNat 16 (0x0008 + i.val), v⟩ = .ok (.wrCount i v) ∧
    (v ≠ 0#32 →
      exec (.wrCount i v) s = .next (answered true 0#32 { s with
        count := s.count.set i v
        derived := s.derived.set i (derive s.clockHz (s.freq.get i) (s.duty.get i)) })) ∧
    (v ≠ 0#32 → s.derived.get i = derive s.clockHz (s.freq.get i) (s.duty.get i) →
      exec (.wrCount i v) s = .next (answered true 0#32 { s with count := s.count.set i v })) ∧
    (v = 0#32 → exec (.wrCount i v) s = .next (answered false 0#32 s))

/-- R203, R212: `wr MODE[i], v` (0 = Count, 1 = Infinite) and `wr EVT_EN, v`, the 1-bit registers; neither
write emits an event. The codes of MODE are the spec's decision D4 (R92; the inductive type is assumption log
17). -/
def Obligations.WriteOneBitRegistersResult : Prop :=
  ∀ (i : Chan) (v : Word) (s : State),
    decode ⟨BitVec.ofNat 16 (0x000C + i.val), v⟩ = .ok (.wrMode i v) ∧
    (v = 0#32 → exec (.wrMode i v) s = .next (answered true 0#32 { s with mode := s.mode.set i .count })) ∧
    (v = 1#32 → exec (.wrMode i v) s = .next (answered true 0#32 { s with mode := s.mode.set i .infinite })) ∧
    (1 < v.toNat → exec (.wrMode i v) s = .next (answered false 0#32 s)) ∧
    decode ⟨0x0029#16, v⟩ = .ok (.wrEvtEn v) ∧
    (v.toNat ≤ 1 → exec (.wrEvtEn v) s = .next (answered true 0#32 { s with evtEn := decide (v.toNat = 1) })) ∧
    (1 < v.toNat → exec (.wrEvtEn v) s = .next (answered false 0#32 s))

/-- R204: `wr TRIG_MASK[s], v`. -/
def Obligations.WriteTrigMaskResult : Prop :=
  ∀ (k : Src) (v : Word) (s : State),
    decode ⟨BitVec.ofNat 16 (0x0018 + k.val), v⟩ = .ok (.wrTrigMask k v) ∧
    (v.toNat ≤ 0xF → exec (.wrTrigMask k v) s = .next (answered true 0#32 { s with
      tmask := s.tmask.set k (BitVec.ofNat 4 v.toNat) })) ∧
    (0xF < v.toNat → exec (.wrTrigMask k v) s = .next (answered false 0#32 s))

/-- R205, R206: `wr TRIG_MODE[s], v` (bit 0 TPOL, bit 1 TACT) and `wr ALL_MODE, v` (bits 1:0 AACT, bit 2
APOL). The places and codes of the fields are the spec's decision D4. -/
def Obligations.WriteTriggerModesResult : Prop :=
  ∀ (k : Src) (v : Word) (s : State),
    decode ⟨BitVec.ofNat 16 (0x001C + k.val), v⟩ = .ok (.wrTrigMode k v) ∧
    (v.toNat ≤ 3 → exec (.wrTrigMode k v) s = .next (answered true 0#32 { s with
      tpol := s.tpol.set k (decide (v.toNat % 2 = 1))
      tact := s.tact.set k (if 2 ≤ v.toNat then .startAndStop else .startOnly) })) ∧
    (3 < v.toNat → exec (.wrTrigMode k v) s = .next (answered false 0#32 s)) ∧
    decode ⟨0x0020#16, v⟩ = .ok (.wrAllMode v) ∧
    (v.toNat ≤ 7 → exec (.wrAllMode v) s = .next (answered true 0#32 { s with
      aact := if v.toNat % 4 = 0 then .triggerAll else if v.toNat % 4 = 1 then .triggerAllAndStop
        else if v.toNat % 4 = 2 then .enable else .enableAndStop
      apol := decide (4 ≤ v.toNat) })) ∧
    (7 < v.toNat → exec (.wrAllMode v) s = .next (answered false 0#32 s))

/-- R207, R178: `wr START, v`. The selected masks are those of the sources s with v[s] = 1; their channels
that are not running and not gated off are started, each once, source by source and ascending inside a source.
That bit s selects source s is the spec's decision D19; the order of the events is its decision D18 (R151,
assumption log 16). -/
def Obligations.WriteStartResult : Prop :=
  ∀ (v : Word) (s : State),
    decode ⟨0x0021#16, v⟩ = .ok (.wrStart v) ∧
    (v.toNat ≤ 0xF → exec (.wrStart v) s = .next { afterStarts
        (startable (unionOf (selectedMasks (BitVec.ofNat 4 v.toNat) s)) s)
        (visitOrder (~~~startable 0xF#4 s) (selectedMasks (BitVec.ofNat 4 v.toNat) s)) s with
      startLatch := BitVec.ofNat 4 v.toNat }) ∧
    (0xF < v.toNat → exec (.wrStart v) s = .next (answered false 0#32 s))

/-- R208, R179: `wr STOP, v`. The running channels of the selected masks are stopped, whatever TACT is. That
bit s selects source s is the spec's decision D19; the order of the events is its decision D18 (R151,
assumption log 16). -/
def Obligations.WriteStopResult : Prop :=
  ∀ (v : Word) (s : State),
    decode ⟨0x0022#16, v⟩ = .ok (.wrStop v) ∧
    (v.toNat ≤ 0xF → exec (.wrStop v) s = .next { afterStops
        (unionOf (selectedMasks (BitVec.ofNat 4 v.toNat) s) &&& s.run)
        (visitOrder (~~~s.run) (selectedMasks (BitVec.ofNat 4 v.toNat) s)) s with
      stopLatch := BitVec.ofNat 4 v.toNat }) ∧
    (0xF < v.toNat → exec (.wrStop v) s = .next (answered false 0#32 s))

/-- R178, R179, R207, R208 channel by channel: after an accepted command, channel j runs exactly when it ran
before or a selected source's mask names it and it is not gated off (START), or when it ran before and no
selected source's mask names it (STOP). Of all the events that name j there is exactly one, its TMR_PROGRAM or
its TMR_HALT, where j changed, and none where it did not. What the command bits select is the spec's decision
D19. -/
def Obligations.CommandsActOnEachSelectedChannelOnce : Prop :=
  ∀ (v : Word) (s t u : State) (j : Chan), v.toNat ≤ 0xF →
    exec (.wrStart v) s = .next t → exec (.wrStop v) s = .next u →
    (t.run.getLsbD j.val = true ↔ s.run.getLsbD j.val = true ∨
      (s.startAllowed j = true ∧ ∃ k : Src, v.getLsbD k.val = true ∧ (s.tmask.get k).getLsbD j.val = true)) ∧
    (u.run.getLsbD j.val = true ↔ s.run.getLsbD j.val = true ∧
      ¬ ∃ k : Src, v.getLsbD k.val = true ∧ (s.tmask.get k).getLsbD j.val = true) ∧
    t.events.filter (Event.names j) =
      (if t.run.getLsbD j.val = true ∧ s.run.getLsbD j.val = false then [programEvent (s.derived.get j) j] else []) ∧
    u.events.filter (Event.names j) =
      (if u.run.getLsbD j.val = false ∧ s.run.getLsbD j.val = true then [.tmrHalt j] else [])

/-- R209, R210, R211: `wr ENABLE`, `wr CONFIRM`, `wr SINGLE_SHOT` write their mask only; no channel starts or
stops. -/
def Obligations.WriteGateMasksResult : Prop :=
  ∀ (v : Word) (s : State),
    decode ⟨0x0023#16, v⟩ = .ok (.wrEnable v) ∧ decode ⟨0x0024#16, v⟩ = .ok (.wrConfirm v) ∧
    decode ⟨0x0025#16, v⟩ = .ok (.wrSingleShot v) ∧
    (v.toNat ≤ 0xF →
      exec (.wrEnable v) s = .next (answered true 0#32 { s with enable := BitVec.ofNat 4 v.toNat }) ∧
      exec (.wrConfirm v) s = .next (answered true 0#32 { s with confirm := BitVec.ofNat 4 v.toNat }) ∧
      exec (.wrSingleShot v) s = .next (answered true 0#32 { s with ssd := BitVec.ofNat 4 v.toNat })) ∧
    (0xF < v.toNat →
      exec (.wrEnable v) s = .next (answered false 0#32 s) ∧
      exec (.wrConfirm v) s = .next (answered false 0#32 s) ∧
      exec (.wrSingleShot v) s = .next (answered false 0#32 s))

/-- R213: a write to a read-only register responds (0, 0) and changes nothing, whatever data is. The failure
response is the spec's decision D24. -/
def Obligations.WriteReadOnlyIsRejected : Prop :=
  ∀ (i : Chan) (v : Word) (s : State),
    decode ⟨BitVec.ofNat 16 (0x0010 + i.val), v⟩ = .ok (.wrRealFreq i v) ∧
    decode ⟨BitVec.ofNat 16 (0x0014 + i.val), v⟩ = .ok (.wrRealDuty i v) ∧
    decode ⟨0x0026#16, v⟩ = .ok (.wrTrigState v) ∧ decode ⟨0x0027#16, v⟩ = .ok (.wrRunState v) ∧
    decode ⟨0x0028#16, v⟩ = .ok (.wrExecState v) ∧
    exec (.wrRealFreq i v) s = .next (answered false 0#32 s) ∧
    exec (.wrRealDuty i v) s = .next (answered false 0#32 s) ∧
    exec (.wrTrigState v) s = .next (answered false 0#32 s) ∧
    exec (.wrRunState v) s = .next (answered false 0#32 s) ∧
    exec (.wrExecState v) s = .next (answered false 0#32 s)

/-- R214, R84: a write responds (1, 0) or (0, 0); one that responds (0, 0) left every state element as it was
and emitted nothing. -/
def Obligations.RejectedWriteLeavesNoTrace : Prop :=
  ∀ (i : Instr) (s t : State), isWrite i → exec i s = .next t →
    t.resp = some ⟨true, 0#32⟩ ∨ t = answered false 0#32 s

/-! ## Register reads -/

/-- R240 to R245: the per-channel reads. The code of MODE (R243) and the mapping of the real values (R244,
R245) are the spec's decisions D4 and D3. -/
def Obligations.ReadChannelRegistersResult : Prop :=
  ∀ (i : Chan) (d : Word) (s : State),
    decode ⟨BitVec.ofNat 16 (0x2000 + i.val), d⟩ = .ok (.rdFreq i) ∧
    decode ⟨BitVec.ofNat 16 (0x2004 + i.val), d⟩ = .ok (.rdDuty i) ∧
    decode ⟨BitVec.ofNat 16 (0x2008 + i.val), d⟩ = .ok (.rdCount i) ∧
    decode ⟨BitVec.ofNat 16 (0x200C + i.val), d⟩ = .ok (.rdMode i) ∧
    decode ⟨BitVec.ofNat 16 (0x2010 + i.val), d⟩ = .ok (.rdRealFreq i) ∧
    decode ⟨BitVec.ofNat 16 (0x2014 + i.val), d⟩ = .ok (.rdRealDuty i) ∧
    exec (.rdFreq i) s = .next (answered true (s.freq.get i) s) ∧
    exec (.rdDuty i) s = .next (answered true (s.duty.get i) s) ∧
    exec (.rdCount i) s = .next (answered true (s.count.get i) s) ∧
    exec (.rdMode i) s = .next (answered true (if s.mode.get i = .infinite then 1#32 else 0#32) s) ∧
    exec (.rdRealFreq i) s = .next (answered true (s.derived.get i).realFreq s) ∧
    exec (.rdRealDuty i) s = .next (answered true (s.derived.get i).realDuty s)

/-- R246 to R251, R254, R256, R257: the reads of the trigger-source configuration (`{TACT, TPOL}` and `{APOL,
AACT}`), of the masks and of EVT_EN. The field places of TRIG_MODE and ALL_MODE (R247, R248) and the meaning
of RUN_STATE (R256) are the spec's decisions D4 and D28. -/
def Obligations.ReadConfigurationAndStatusResult : Prop :=
  ∀ (k : Src) (d : Word) (s : State),
    decode ⟨BitVec.ofNat 16 (0x2018 + k.val), d⟩ = .ok (.rdTrigMask k) ∧
    decode ⟨BitVec.ofNat 16 (0x201C + k.val), d⟩ = .ok (.rdTrigMode k) ∧
    decode ⟨0x2020#16, d⟩ = .ok .rdAllMode ∧
    decode ⟨0x2023#16, d⟩ = .ok .rdEnable ∧ decode ⟨0x2024#16, d⟩ = .ok .rdConfirm ∧
    decode ⟨0x2025#16, d⟩ = .ok .rdSingleShot ∧ decode ⟨0x2029#16, d⟩ = .ok .rdEvtEn ∧
    decode ⟨0x2027#16, d⟩ = .ok .rdRunState ∧ decode ⟨0x2028#16, d⟩ = .ok .rdExecState ∧
    exec (.rdTrigMask k) s = .next (answered true (BitVec.ofNat 32 (s.tmask.get k).toNat) s) ∧
    exec (.rdTrigMode k) s = .next (answered true (BitVec.ofNat 32
      ((if s.tact.get k = .startAndStop then 2 else 0) + (if s.tpol.get k = true then 1 else 0))) s) ∧
    exec .rdAllMode s = .next (answered true (BitVec.ofNat 32
      ((if s.apol = true then 4 else 0) + (allActionCode s.aact).toNat)) s) ∧
    exec .rdEnable s = .next (answered true (BitVec.ofNat 32 s.enable.toNat) s) ∧
    exec .rdConfirm s = .next (answered true (BitVec.ofNat 32 s.confirm.toNat) s) ∧
    exec .rdSingleShot s = .next (answered true (BitVec.ofNat 32 s.ssd.toNat) s) ∧
    exec .rdEvtEn s = .next (answered true (if s.evtEn = true then 1#32 else 0#32) s) ∧
    exec .rdRunState s = .next (answered true (BitVec.ofNat 32 s.run.toNat) s) ∧
    exec .rdExecState s = .next (answered true (BitVec.ofNat 32 s.execState.toNat) s)

/-- R252, R253: a read of START or STOP returns the latch, then clears it; nothing starts or stops. This
reading of "self-clearing" is the spec's decision D20. -/
def Obligations.ReadCommandLatchesClears : Prop :=
  ∀ (d : Word) (s : State),
    decode ⟨0x2021#16, d⟩ = .ok .rdStart ∧ decode ⟨0x2022#16, d⟩ = .ok .rdStop ∧
    exec .rdStart s = .next (answered true (BitVec.ofNat 32 s.startLatch.toNat) { s with startLatch := 0#4 }) ∧
    exec .rdStop s = .next (answered true (BitVec.ofNat 32 s.stopLatch.toNat) { s with stopLatch := 0#4 })

/-- R255: `rd TRIG_STATE` responds with a 5-bit sample of the pins and changes no state of the block; the
sample is the free value at the model's count of samples, which advances (assumption log 6). That the sample
is free is the spec's decision D27. -/
def Obligations.ReadTrigStateSamplesThePins : Prop :=
  ∀ (d : Word) (s : State),
    decode ⟨0x2026#16, d⟩ = .ok .rdTrigState ∧
    exec .rdTrigState s = .next (answered true (BitVec.ofNat 32 (Config.pinLevels s.draws).toNat)
      { s with draws := s.draws + 1 })

/-- R310: a read right after an accepted write of a writable register returns the written value. -/
def Obligations.ReadAfterWriteReturnsTheValue : Prop :=
  ∀ (i r : Instr) (v : Word) (s t : State), readBack i = some (r, v) → exec i s = .next t →
    t.resp = some ⟨true, 0#32⟩ → ∃ u, exec r t = .next u ∧ u.resp = some ⟨true, v⟩

/-! ## Channels, triggers, pulses -/

/-- R140, R141, R142: the start primitive. That DV_VALID = 0 does not block a start is the spec's decision
D11. -/
def Obligations.StartPrimitiveResult : Prop :=
  ∀ (i : Chan) (s : State),
    (s.run.getLsbD i.val = true → start i s = (s, false)) ∧
    (s.confirm.getLsbD i.val = true → s.enable.getLsbD i.val = false → start i s = (s, false)) ∧
    (s.run.getLsbD i.val = false → (s.confirm.getLsbD i.val = false ∨ s.enable.getLsbD i.val = true) →
      ∃ t, start i s = (t, true) ∧ t = { s with
          rem := s.rem.set i (s.count.get i)
          latched := s.latched.set i ⟨(s.derived.get i).psc, (s.derived.get i).ct, (s.derived.get i).dc, s.mode.get i⟩
          run := t.run
          events := s.events ++ [.tmrProgram i (s.derived.get i).psc (s.derived.get i).ct (s.derived.get i).dc] } ∧
        ∀ j : Chan, t.run.getLsbD j.val = (decide (j = i) || s.run.getLsbD j.val))

/-- R143, R144, R145: the stop primitive, with single-shot disable. -/
def Obligations.StopPrimitiveResult : Prop :=
  ∀ (i : Chan) (s : State),
    (s.run.getLsbD i.val = false → stop i s = (s, false)) ∧
    (s.run.getLsbD i.val = true →
      ∃ t, stop i s = (t, true) ∧ t = { s with
          run := t.run, enable := t.enable, events := s.events ++ [.tmrHalt i] } ∧
        (∀ j : Chan, t.run.getLsbD j.val = (!decide (j = i) && s.run.getLsbD j.val)) ∧
        ∀ j : Chan, t.enable.getLsbD j.val =
          (!(decide (j = i) && s.ssd.getLsbD i.val) && s.enable.getLsbD j.val))

/-- R170, R171: a discrete trigger edge. -/
def Obligations.EdgeResult : Prop :=
  ∀ (k : Src) (lvl : Bool) (d : Word) (s : State),
    decode ⟨BitVec.ofNat 16 (0x4000 + (if lvl then 0x100 else 0) + k.val), d⟩ = .ok (.edge k lvl) ∧
    (lvl ≠ s.tpol.get k → exec (.edge k lvl) s = .next (afterStarts (startable (s.tmask.get k) s)
      (members (startable (s.tmask.get k) s)) s)) ∧
    (lvl = s.tpol.get k → s.tact.get k = .startAndStop → exec (.edge k lvl) s = .next
      (afterStops (s.tmask.get k &&& s.run) (members (s.tmask.get k &&& s.run)) s)) ∧
    (lvl = s.tpol.get k → s.tact.get k = .startOnly → exec (.edge k lvl) s = .next (afterFoldOnly s))

/-- R175, R176, R177: an edge of the "all" source, in its four modes; TMASK is never read. The Enable modes
and the polarity of the "all" source are the spec's decisions D21 and D42 (assumption log 11). -/
def Obligations.EdgeAllResult : Prop :=
  ∀ (lvl : Bool) (d : Word) (s : State),
    decode ⟨BitVec.ofNat 16 (0x6000 + (if lvl then 0x100 else 0)), d⟩ = .ok (.edgeAll lvl) ∧
    (lvl ≠ s.apol → (s.aact = .triggerAll ∨ s.aact = .triggerAllAndStop) → exec (.edgeAll lvl) s = .next
      (afterStarts (startable 0xF#4 s) (members (startable 0xF#4 s)) s)) ∧
    (lvl = s.apol → s.aact = .triggerAllAndStop → exec (.edgeAll lvl) s = .next
      (afterStops s.run (members s.run) s)) ∧
    (lvl ≠ s.apol → (s.aact = .enable ∨ s.aact = .enableAndStop) → exec (.edgeAll lvl) s = .next
      (afterFoldOnly { s with enable := 0xF#4 })) ∧
    (lvl = s.apol → s.aact = .enableAndStop → exec (.edgeAll lvl) s = .next
      (afterFoldOnly { s with enable := 0x0#4 })) ∧
    (lvl = s.apol → (s.aact = .triggerAll ∨ s.aact = .enable) → exec (.edgeAll lvl) s = .next (afterFoldOnly s))

/-- R160, R161, R163: a pulse boundary on a running channel decrements REM modulo 2^32 and stops the channel
exactly when its latched mode is Count and REM reaches 0; on a stopped channel nothing but the fold remains.
That a stray pulse is ignored is the spec's decision D16 (assumption log 14), the wrap D17, and that the mode
is the latched one D15 (R146, assumption log 17). -/
def Obligations.PulseResult : Prop :=
  ∀ (i : Chan) (d : Word) (s : State),
    decode ⟨BitVec.ofNat 16 (0x8000 + i.val), d⟩ = .ok (.pulse i) ∧
    (s.run.getLsbD i.val = true → (s.latched.get i).mode = .count → s.rem.get i = 1#32 →
      exec (.pulse i) s = .next (afterStops (1#4 <<< i.val) [i] { s with rem := s.rem.set i 0#32 })) ∧
    (s.run.getLsbD i.val = true → ((s.latched.get i).mode = .infinite ∨ s.rem.get i ≠ 1#32) →
      exec (.pulse i) s = .next (afterFoldOnly { s with
        rem := s.rem.set i (BitVec.ofInt 32 (((s.rem.get i).toNat : ℤ) - 1)) })) ∧
    (s.run.getLsbD i.val = false → exec (.pulse i) s = .next (afterFoldOnly s))

/-- R161, R172: a pulse boundary on a stopped channel, and the opposite edge of a StartOnly source, change no
state and emit nothing. R161 is the spec's decision D16. -/
def Obligations.IgnoredEventsChangeNothing : Prop :=
  ∀ s : State, s.execState = s.run →
    (∀ i : Chan, s.run.getLsbD i.val = false → exec (.pulse i) s = .next (answered true 0#32 s)) ∧
    (∀ (k : Src) (lvl : Bool), s.tact.get k = .startOnly → lvl = s.tpol.get k →
      exec (.edge k lvl) s = .next (answered true 0#32 s))

/-- R140, R146, R317: whatever request starts a channel, the channel gets the full configured count, and the
timer parameters and mode of the configuration at that moment. That the mode is latched is the spec's decision
D15. -/
def Obligations.EveryStartReloadsTheChannel : Prop :=
  ∀ (i : Instr) (s t : State) (j : Chan), exec i s = .next t →
    s.run.getLsbD j.val = false → t.run.getLsbD j.val = true →
    t.rem.get j = s.count.get j ∧
    t.latched.get j = ⟨(s.derived.get j).psc, (s.derived.get j).ct, (s.derived.get j).dc, s.mode.get j⟩ ∧
    .tmrProgram j (s.derived.get j).psc (s.derived.get j).ct (s.derived.get j).dc ∈ t.events

/-- R141: no request starts a channel that is gated off. -/
def Obligations.GatedOffChannelNeverStarts : Prop :=
  ∀ (i : Instr) (s t : State) (j : Chan), exec i s = .next t →
    s.run.getLsbD j.val = false → s.confirm.getLsbD j.val = true → s.enable.getLsbD j.val = false →
    t.run.getLsbD j.val = false

/-- R36, R46, R142: nothing but RESET changes the latched parameters of a running channel, and nothing but
RESET and its own pulse boundary changes its remaining pulses. -/
def Obligations.RunningChannelKeepsItsParameters : Prop :=
  ∀ (i : Instr) (s t : State) (j : Chan), exec i s = .next t → i ≠ .reset → s.run.getLsbD j.val = true →
    t.latched.get j = s.latched.get j ∧ (i ≠ .pulse j → t.rem.get j = s.rem.get j)

/-- R33, R34, R150: only EDGE, EDGE_ALL, PULSE, WR START, WR STOP, POWER_DOWN and RESET change RUN or EXEC or
emit an event. -/
def Obligations.OnlyBatchesAndLifecycleTouchExecution : Prop :=
  ∀ (i : Instr) (s t : State), exec i s = .next t → ¬ Folds i → i ≠ .powerDown → i ≠ .reset →
    t.run = s.run ∧ t.execState = s.execState ∧ t.rem = s.rem ∧ t.latched = s.latched ∧ t.events = []

/-- R144, R27: but for `wr ENABLE`, an edge of the "all" source in one of its Enable modes, and RESET, a
request clears ENABLE[j] exactly when it stops channel j with SSD[j] = 1, and never sets a bit; the stops of a
STOP command, of a discrete edge, of an "all" edge and of a pulse boundary are all such stops. That POWER_DOWN
is no stop is the spec's decision D22. -/
def Obligations.SingleShotStopClearsEnable : Prop :=
  ∀ (i : Instr) (s t : State) (j : Chan), exec i s = .next t → (∀ v, i ≠ .wrEnable v) →
    ¬ EnableModeEdge i s → i ≠ .reset →
    t.enable.getLsbD j.val = (s.enable.getLsbD j.val &&
      !(s.run.getLsbD j.val && !t.run.getLsbD j.val && s.ssd.getLsbD j.val && decide (i ≠ .powerDown)))

/-- R70, R152: the events of a request are timer events, then at most one NOTIFY, which carries the address of
EXEC_STATE. -/
def Obligations.EventsEndWithAtMostOneNotify : Prop :=
  ∀ (i : Instr) (s t : State), exec i s = .next t →
    ∃ l : List Event, (∀ e ∈ l, e.isNotify = false) ∧ (t.events = l ∨ t.events = l ++ [.notify 0x28#8])

/-- R150, R273: a request other than POWER_DOWN and RESET notifies exactly when EXEC changed and EVT_EN = 1;
those two never notify. That those two never notify is the spec's decisions D22 and D26. -/
def Obligations.NotifyExactlyWhenExecChanges : Prop :=
  ∀ (i : Instr) (s t : State), exec i s = .next t →
    (.notify 0x28#8 ∈ t.events ↔ t.execState ≠ s.execState ∧ s.evtEn = true ∧ i ≠ .powerDown ∧ i ≠ .reset)

/-- R33, R164: the timer units, active from TMR_PROGRAM to TMR_HALT, are active exactly as RUN says, after
every request. This rests on the spec's decisions D14 and D35. -/
def Obligations.TimerUnitsFollowRun : Prop :=
  ∀ (i : Instr) (s t : State), exec i s = .next t → t.events.foldl timersAfter s.run = t.run

/-- R40, R41: at the end of every step EXEC = RUN, SYNC_CH[j] is RUN[j], and SYNC_ALL is asserted exactly when
some channel runs. The levels are the spec's decision D34. -/
def Obligations.ExecEqualsRunAndSyncLevelsFollow : Prop :=
  ∀ (s t : State), s.execState = s.run → step s = .next t →
    t.execState = t.run ∧ (∀ j : Chan, t.syncCh j = t.run.getLsbD j.val) ∧
    (t.syncAll = true ↔ ∃ j : Chan, t.run.getLsbD j.val = true)

/-- R162: a Count channel with N pulses left (N ≥ 1) runs through its first N - 1 pulse boundaries, losing one
each time; the N-th stops it, and it stays stopped under further pulse boundaries. -/
def Obligations.CountRunStopsAtExactlyNPulses : Prop :=
  ∀ (i : Chan) (s : State) (n : Nat), s.execState = s.run → s.run.getLsbD i.val = true →
    (s.latched.get i).mode = .count → (s.rem.get i).toNat = n → 1 ≤ n →
    (∀ m, m < n → (afterPulses i m s).execState.getLsbD i.val = true ∧
      ((afterPulses i m s).rem.get i).toNat = n - m) ∧
    (∀ m, n ≤ m → (afterPulses i m s).execState.getLsbD i.val = false)

/-- R163: an Infinite channel keeps running through any number of pulse boundaries; REM wraps. The wrap is the
spec's decision D17. -/
def Obligations.InfiniteRunNeverStopsItself : Prop :=
  ∀ (i : Chan) (s : State) (n : Nat), s.execState = s.run → s.run.getLsbD i.val = true →
    (s.latched.get i).mode = .infinite →
    (afterPulses i n s).execState.getLsbD i.val = true ∧
    (afterPulses i n s).rem.get i = BitVec.ofInt 32 (((s.rem.get i).toNat : ℤ) - n)

/-- R277: a pulse boundary that ends channel i's count and a STOP command that names i, in either order. The
channel is halted once. The two orders end in the same state but for REM[i], which is 0 after the pulse and
keeps its 1 when the STOP came first (R35: a stopped channel's REM has no meaning), and for the last request's
events. With EVT_EN = 1 the request that stops channel i notifies once; the later request notifies only where
it stops another channel, and the later pulse emits nothing. -/
def Obligations.PulseAndStopNeverDoubleApply : Prop :=
  ∀ (i : Chan) (v : Word) (s p ps q qp : State), s.execState = s.run → s.run.getLsbD i.val = true →
    (s.latched.get i).mode = .count → s.rem.get i = 1#32 → v.toNat ≤ 0xF →
    (unionOf (selectedMasks (BitVec.ofNat 4 v.toNat) s)).getLsbD i.val = true →
    exec (.pulse i) s = .next p → exec (.wrStop v) p = .next ps →
    exec (.wrStop v) s = .next q → exec (.pulse i) q = .next qp →
    (p.events ++ ps.events).count (.tmrHalt i) = 1 ∧ (q.events ++ qp.events).count (.tmrHalt i) = 1 ∧
    ps = { qp with rem := qp.rem.set i 0#32, events := ps.events } ∧ ps.run.getLsbD i.val = false ∧
    p.events.count (.notify 0x28#8) = (if s.evtEn = true then 1 else 0) ∧
    q.events.count (.notify 0x28#8) = (if s.evtEn = true then 1 else 0) ∧
    ps.events.count (.notify 0x28#8) =
      (if s.evtEn = true ∧ unionOf (selectedMasks (BitVec.ofNat 4 v.toNat) s) &&& s.run ≠ 1#4 <<< i.val
        then 1 else 0) ∧
    qp.events = []

/-- R181: in Enable mode an active "all" edge sets all four ENABLE bits and starts no timer; an active
discrete edge after it starts every masked channel that is not running. -/
def Obligations.EnableEdgeThenDiscreteStart : Prop :=
  ∀ (lvl lvl' : Bool) (k : Src) (s t u : State), s.execState = s.run → s.aact = .enable → lvl ≠ s.apol →
    lvl' ≠ s.tpol.get k → exec (.edgeAll lvl) s = .next t → exec (.edge k lvl') t = .next u →
    t.enable = 0xF#4 ∧ t.run = s.run ∧ t.events = [] ∧ u.run = s.run ||| s.tmask.get k

/-- R182: in TriggerAll mode, with exactly one channel running, none of the other three gated off and events
enabled, an active "all" edge starts the other three and emits exactly one NOTIFY, last. -/
def Obligations.TriggerAllBatchNotifiesOnce : Prop :=
  ∀ (lvl : Bool) (j : Chan) (s t : State), s.execState = s.run → s.aact = .triggerAll → lvl ≠ s.apol →
    s.run = 1#4 <<< j.val → (∀ i : Chan, i ≠ j → s.startAllowed i = true) → s.evtEn = true →
    exec (.edgeAll lvl) s = .next t →
    t.run = 0xF#4 ∧ t.events = ((members (~~~(1#4 <<< j.val))).map fun i =>
      Event.tmrProgram i (s.derived.get i).psc (s.derived.get i).ct (s.derived.get i).dc) ++ [.notify 0x28#8]

/-! ## Power-down and reset -/

/-- R290: POWER_DOWN. What it keeps and that it does not notify is the spec's decision D22. -/
def Obligations.PowerDownResult : Prop :=
  ∀ (d : Word) (s : State),
    decode ⟨0xA000#16, d⟩ = .ok .powerDown ∧
    exec .powerDown s = .next { s with
      run := 0#4, execState := 0#4
      events := (members s.run).map Event.tmrHalt, resp := some ⟨true, 0#32⟩ }

/-- R300: RESET restores every element of the block to the reset table, re-derives at the current CLOCK_HZ,
whatever it is, and halts the channels that were running. The values that the source does not give are the
spec's decision D23, the halts D26; the parameter CLOCK_HZ, the port and the model's counters stay (assumption
logs 1, 2 and 6). -/
def Obligations.ResetResult : Prop :=
  ∀ (d : Word) (s : State),
    decode ⟨0xC000#16, d⟩ = .ok .reset ∧
    exec .reset s = .next { State.resetAt s.clockHz with
      port := s.port, arb := s.arb, draws := s.draws
      events := (members s.run).map Event.tmrHalt, resp := some ⟨true, 0#32⟩ }

/-- The reset values of the spec (spec/10_state.md section 9), register by register, and R301: DV_* and REAL_*
are what `update_derived` gives, at any CLOCK_HZ; `State.reset` is the one at 32,000,000 (R8, assumption log
1). The values that the source does not give are the spec's decisions D13 and D23. -/
def Obligations.ResetStateHoldsTheTable : Prop :=
  (∀ i : Chan,
    State.reset.freq.get i = 0x41200000#32 ∧ State.reset.duty.get i = 0x42480000#32 ∧
    State.reset.count.get i = BitVec.ofNat 32 (10 * (i.val + 1)) ∧ State.reset.mode.get i = .count ∧
    State.reset.derived.get i = ⟨true, 5#3, 50000#16, 25000#16, 0x41200000#32, 0x42480000#32⟩ ∧
    (∀ clock : Nat, (State.resetAt clock).derived.get i =
      derive clock (State.reset.freq.get i) (State.reset.duty.get i)) ∧
    State.reset.tmask.get i = 1#4 <<< i.val ∧ State.reset.tpol.get i = false ∧
    State.reset.tact.get i = .startOnly ∧ State.reset.rem.get i = 0#32 ∧
    State.reset.latched.get i = ⟨0#3, 0#16, 0#16, .count⟩) ∧
  State.reset.enable = 0#4 ∧ State.reset.confirm = 0#4 ∧ State.reset.ssd = 0#4 ∧
  State.reset.apol = false ∧ State.reset.aact = .triggerAll ∧ State.reset.run = 0#4 ∧
  State.reset.execState = 0#4 ∧ State.reset.startLatch = 0#4 ∧ State.reset.stopLatch = 0#4 ∧
  State.reset.evtEn = true ∧ State.reset.clockHz = 32000000 ∧ State.resetAt 32000000 = State.reset ∧
  ∀ clock : Nat, State.resetAt clock =
    { State.reset with clockHz := clock, derived := (State.resetAt clock).derived }

/-! ## The fitter and the derivation -/

/-- R120, R121, R122: for every clock and every positive finite frequency, `fit` is the first divisor in order
whose exactly computed, once rounded count lies in 1 to 65535. That the count is exact and rounds ties up is
the spec's decisions D7 and D8 (R122, assumption log 9). -/
def Obligations.FitIsTheFirstDivisorThatFits : Prop :=
  ∀ (clock : Nat) (f : Word) (r : Fit), 0 < clock → FinitePattern f → 0 < exactVal f →
    (fit clock (unitsOf f) = some r ↔ ExactFit clock (exactVal f) r)

/-- R123: `fit` is infeasible exactly when the count is above 65535 at every divisor or rounds to 0 at every
divisor. How the count rounds, which decides the too-high edge, is the spec's decisions D7 and D8 (R122,
assumption log 9); the too-high case is the spec's own addition (its conflict C6). -/
def Obligations.FitFailsOnlyTooLowOrTooHigh : Prop :=
  ∀ (clock : Nat) (f : Word), 0 < clock → FinitePattern f → 0 < exactVal f →
    (fit clock (unitsOf f) = none ↔
      (∀ k, 65535 < exactCount clock (exactVal f) k) ∨ (∀ k, exactCount clock (exactVal f) k = 0))

/-- R124, R125, R126: the derived values, from the exact duty compare; an infeasible fit or a degenerate duty
zeroes all six. The rounding and the zeroed timer parameters are the spec's decisions D7, D10 and D11. -/
def Obligations.DerivationFollowsExactArithmetic : Prop :=
  ∀ (clock : Nat) (f d : Word), 0 < clock → FinitePattern d → 0 < exactVal d →
    (fit clock (unitsOf f) = none →
      derive clock f d = ⟨false, 0#3, 0#16, 0#16, 0x00000000#32, 0x00000000#32⟩) ∧
    ∀ r, fit clock (unitsOf f) = some r →
      ((exactDuty (exactVal d) r.ct.toNat = 0 ∨ (r.ct.toNat : ℤ) ≤ exactDuty (exactVal d) r.ct.toNat) →
        derive clock f d = ⟨false, 0#3, 0#16, 0#16, 0x00000000#32, 0x00000000#32⟩) ∧
      (¬ (exactDuty (exactVal d) r.ct.toNat = 0 ∨ (r.ct.toNat : ℤ) ≤ exactDuty (exactVal d) r.ct.toNat) →
        ∃ dc : Nat, (dc : ℤ) = exactDuty (exactVal d) r.ct.toNat ∧
          derive clock f d = ⟨true, r.psc, r.ct, BitVec.ofNat 16 dc,
            f32 clock (divisorOf r.psc * r.ct.toNat), f32 (100 * dc) r.ct.toNat⟩)

/-- R127: an infeasible fit zeroes the derived values at any clock, and at CLOCK_HZ = 32,000,000 no accepted
frequency is infeasible. The zeroing of the timer parameters is the spec's decision D11. -/
def Obligations.LegalFrequencyAlwaysFits : Prop :=
  (∀ (clock : Nat) (f d : Word), fit clock (unitsOf f) = none →
    derive clock f d = ⟨false, 0#3, 0#16, 0#16, 0x00000000#32, 0x00000000#32⟩) ∧
  ∀ f : Word, legalFreq f = true → ∃ r, fit 32000000 (unitsOf f) = some r ∧ 1 ≤ r.ct.toNat

/-- R128: at CLOCK_HZ = 32,000,000 every accepted frequency and duty give a valid derivation, with a count of
at least 977 and a duty compare strictly inside it. R128 is the spec's own derivation. -/
def Obligations.LegalConfigurationIsNeverDegenerate : Prop :=
  ∀ f d : Word, legalFreq f = true → legalDuty d = true →
    (derive 32000000 f d).valid = true ∧ 977 ≤ (derive 32000000 f d).ct.toNat ∧
    UsablePulse (derive 32000000 f d).psc (derive 32000000 f d).ct (derive 32000000 f d).dc

/-- R129: at CLOCK_HZ = 32,000,000 divisor number k is selected for a legal frequency exactly in its band T_k
< f <= T_{k-1}. R129 is the spec's own derivation. -/
def Obligations.DivisorBandsAtThisClock : Prop :=
  ∀ (f : Word) (k : Fin 7), legalFreq f = true →
    ((∃ r, fit 32000000 (unitsOf f) = some r ∧ r.psc.toNat = k.val + 1) ↔
      (bandEdge 32000000 k < exactVal f ∧ ∀ j : Fin 7, j.val + 1 = k.val → exactVal f ≤ bandEdge 32000000 j))

/-- R131: for every legal configuration at CLOCK_HZ = 32,000,000, REAL_FREQ and REAL_DUTY are the exact
results CLOCK_HZ / (div * ct) and 100 * dc / ct, rounded once to binary32, to nearest, ties to even; and `f32`
rounds so over the whole range of finite results, up to (2 - 2^-24) * 2^127, where infinity begins
(spec/00_scope.md section 4). The rounding is the spec's decision D9 (assumption log 8). -/
def Obligations.RealValuesAreNearestBinary32 : Prop :=
  (∀ n d : Nat, 0 < d → (n : ℚ) / d < (2 - 1 / 2 ^ 24) * 2 ^ 127 → IsNearest ((n : ℚ) / d) (f32 n d)) ∧
  ∀ f d : Word, legalFreq f = true → legalDuty d = true →
    IsNearest (32000000 / (divisorOf (derive 32000000 f d).psc * (derive 32000000 f d).ct.toNat))
      (derive 32000000 f d).realFreq ∧
    IsNearest (100 * (derive 32000000 f d).dc.toNat / (derive 32000000 f d).ct.toNat)
      (derive 32000000 f d).realDuty

/-! ## Invariants -/

/-- At any clock every step keeps the block well: CLOCK_HZ stays as it is, EXEC = RUN, legal configuration,
current derived values, and pulses left in every running Count channel (R8, R41, R21 to R26, R130, R162). -/
def Obligations.StepKeepsWellState : Prop :=
  ∀ s t : State, WellState s → step s = .next t → t.clockHz = s.clockHz ∧ WellState t

/-- The reset state is well at any positive CLOCK_HZ, and no channel runs in it, so none runs silently (R33,
R41, R300, R301). -/
def Obligations.ResetIsWellState : Prop :=
  (∀ clock : Nat, 0 < clock → WellState (State.resetAt clock) ∧ RunsUsablePulses (State.resetAt clock)) ∧
  WellState State.reset ∧ RunsUsablePulses State.reset

/-- At CLOCK_HZ = 32,000,000, the premise that R8 asks for, every step keeps every running channel on a usable
pulse: a clocked prescaler and a duty compare strictly inside the count (R128, R140). -/
def Obligations.StepKeepsRunningChannelsAudible : Prop :=
  ∀ s t : State, s.clockHz = 32000000 → WellState s → RunsUsablePulses s → step s = .next t →
    RunsUsablePulses t
end

