-- ==== Sys2Proof/Laws/Word.lean ====
section
/-! SUPPORT. Small lemmas of the four-element array and of masks. -/

namespace Sys2Proof

variable {α : Type}

/-- A fact about all four indices is four facts. -/
theorem forall_four {P : Fin 4 → Prop} : (∀ i, P i) ↔ P 0 ∧ P 1 ∧ P 2 ∧ P 3 := by
  simp [Fin.forall_fin_succ]

@[simp] theorem Quad.get_set_same (q : Quad α) (i : Fin 4) (v : α) : (q.set i v).get i = v := by
  revert i; simp [forall_four, Quad.set, Quad.get]

theorem Quad.get_set (q : Quad α) (i j : Fin 4) (v : α) :
    (q.set i v).get j = if j = i then v else q.get j := by
  revert i j; simp [forall_four, Quad.set, Quad.get]

theorem Quad.get_set_ne (q : Quad α) {i j : Fin 4} (v : α) (h : j ≠ i) : (q.set i v).get j = q.get j := by
  rw [Quad.get_set, if_neg h]

@[simp] theorem Quad.get_ofFn (f : Fin 4 → α) (i : Fin 4) : (Quad.ofFn f).get i = f i := by
  revert i; simp [forall_four, Quad.ofFn, Quad.get]

@[simp] theorem Quad.get_all (v : α) (i : Fin 4) : (Quad.all v).get i = v := by
  revert i; simp [forall_four, Quad.all, Quad.get]

theorem Quad.ext_get {p q : Quad α} (h : ∀ i, p.get i = q.get i) : p = q := by
  obtain ⟨p0, p1, p2, p3⟩ := p
  obtain ⟨q0, q1, q2, q3⟩ := q
  simpa [forall_four, Quad.get] using h

@[simp] theorem Quad.set_get (q : Quad α) (i : Fin 4) : q.set i (q.get i) = q :=
  Quad.ext_get fun j => by rw [Quad.get_set]; split <;> simp_all

namespace Machine

theorem mask_ext {m n : Mask} (h : ∀ i : Chan, m.getLsbD i.val = n.getLsbD i.val) : m = n :=
  BitVec.eq_of_getLsbD_eq fun k hk => h ⟨k, hk⟩

theorem getLsbD_setBit (m : Mask) (i j : Chan) :
    (setBit m i).getLsbD j.val = (decide (j = i) || m.getLsbD j.val) := by
  revert m i j; decide

theorem getLsbD_clearBit (m : Mask) (i j : Chan) :
    (clearBit m i).getLsbD j.val = (!decide (j = i) && m.getLsbD j.val) := by
  revert m i j; decide

@[simp] theorem getLsbD_mask_and (m n : Mask) (i : Chan) :
    (m &&& n).getLsbD i.val = (m.getLsbD i.val && n.getLsbD i.val) := BitVec.getLsbD_and

@[simp] theorem getLsbD_mask_or (m n : Mask) (i : Chan) :
    (m ||| n).getLsbD i.val = (m.getLsbD i.val || n.getLsbD i.val) := BitVec.getLsbD_or

@[simp] theorem getLsbD_mask_not (m : Mask) (i : Chan) : (~~~m).getLsbD i.val = !m.getLsbD i.val := by
  revert m i; decide

@[simp] theorem getLsbD_mask_zero (i : Chan) : (0#4 : Mask).getLsbD i.val = false := by
  revert i; decide

@[simp] theorem getLsbD_mask_full (i : Chan) : (15#4 : Mask).getLsbD i.val = true := by
  revert i; decide

@[simp] theorem pick_get {α : Type} (m : Mask) (new old : Quad α) (i : Chan) :
    (pick m new old).get i = if m.getLsbD i.val then new.get i else old.get i := Quad.get_ofFn _ i

@[simp] theorem nextLatched_get (s : State) (i : Chan) :
    (nextLatched s).get i = Latched.ofDerived (s.derived.get i) (s.mode.get i) := Quad.get_ofFn _ i

theorem mem_members {m : Mask} {i : Chan} : i ∈ members m ↔ m.getLsbD i.val = true := by
  revert m i; decide

@[simp] theorem startable_getLsbD (m : Mask) (s : State) (i : Chan) :
    (startable m s).getLsbD i.val = (m.getLsbD i.val && !s.run.getLsbD i.val && s.startAllowed i) := by
  simp [startable, State.startAllowed]

end Machine

end Sys2Proof
end

