-- ==== Sys2Proof/Laws/Operands.lean ====
section
/-! SUPPORT. The units of 2^-149 that the model computes with are the values of rule R90. -/

namespace Sys2Proof.Machine

theorem isFinite32_iff (b : Word) : isFinite32 b = true ↔ FinitePattern b := by
  simp only [isFinite32, expOf, FinitePattern, bne_iff_ne, ne_eq, ← BitVec.toNat_inj]
  rfl

/-- The value of a pattern is its signed number of units (rule R90). -/
theorem exactVal_units (b : Word) :
    exactVal b = (if signOf b = true then -1 else 1) * ((unitsOf b : ℚ) / 2 ^ 149) := by
  unfold exactVal unitsOf signOf expOf fracOf
  dsimp only
  generalize (b.extractLsb' 23 8).toNat = e
  generalize (b.extractLsb' 0 23).toNat = m
  generalize (if b.getLsbD 31 = true then (-1 : ℚ) else 1) = σ
  rcases Nat.eq_zero_or_pos e with he | he
  · simp only [he, if_true]
    ring
  · rw [if_neg (by omega), if_neg (by omega)]
    have hz : (2 : ℚ) ^ ((e : ℤ) - 127) = 2 ^ (e - 1) * 2 ^ 23 / 2 ^ 149 := by
      rw [eq_div_iff (by positivity), ← zpow_natCast, ← zpow_natCast, ← zpow_natCast,
        ← zpow_add₀ (by norm_num), ← zpow_add₀ (by norm_num)]
      congr 1
      push_cast [Nat.cast_sub (show 1 ≤ e from he)]
      ring
    rw [hz]
    push_cast
    field_simp
    norm_num

theorem exactVal_of_nonneg {b : Word} (h : signOf b = false) : exactVal b = (unitsOf b : ℚ) / 2 ^ 149 := by
  rw [exactVal_units, h]
  simp

theorem exactVal_nonpos {b : Word} (h : signOf b = true) : exactVal b ≤ 0 := by
  rw [exactVal_units, h]
  simp
  positivity

/-- A pattern of positive value has no sign bit. -/
theorem signOf_of_pos {b : Word} (h : 0 < exactVal b) : signOf b = false := by
  by_contra hs
  rw [Bool.not_eq_false] at hs
  exact absurd (exactVal_nonpos hs) (by linarith)

end Sys2Proof.Machine
end

