-- ==== Sys2Proof/Laws/Fitter.lean ====
section
/-! SUPPORT. The roundings and the search of the fitter: the model's natural-number arithmetic is the spec's
rational arithmetic, and `fit` is the first divisor in order whose count fits. -/

namespace Sys2Proof.Machine

/-- `roundHalfUp a b` is `floor(a/b + 1/2)`. -/
theorem roundHalfUp_eq (a b : ℕ) (hb : 0 < b) : ((roundHalfUp a b : ℕ) : ℤ) = exactRound ((a : ℚ) / b) := by
  symm
  rw [exactRound, Int.floor_eq_iff]
  have hb' : (0:ℚ) < 2 * b := by positivity
  have h1 : (2 * b) * roundHalfUp a b ≤ 2 * a + b := Nat.mul_div_le _ _
  have h2 : 2 * a + b < (2 * b) * (roundHalfUp a b + 1) := by
    have := Nat.lt_mul_div_succ (2 * a + b) (show 0 < 2 * b by omega)
    simpa [roundHalfUp] using this
  have e : (a : ℚ) / b + 1 / 2 = (2 * a + b) / (2 * b) := by field_simp
  rw [e, le_div_iff₀ hb', div_lt_iff₀ hb']
  constructor
  · have : (((2 * b) * roundHalfUp a b : ℕ) : ℚ) ≤ ((2 * a + b : ℕ) : ℚ) := by exact_mod_cast h1
    push_cast at this ⊢; linarith
  · have : ((2 * a + b : ℕ) : ℚ) < (((2 * b) * (roundHalfUp a b + 1) : ℕ) : ℚ) := by exact_mod_cast h2
    push_cast at this ⊢; linarith

/-- The count at a divisor is the exactly computed one (rules R120, R122). -/
theorem countAt_eq (clock : ℕ) (f : Word) (hf : 0 < exactVal f) (k : Fin 7) :
    ((countAt clock (unitsOf f) (nthDivisor k) : ℕ) : ℤ) = exactCount clock (exactVal f) k := by
  have hd : 0 < nthDivisor k := by revert k; decide
  have hs := signOf_of_pos hf
  have hv := exactVal_of_nonneg hs
  have hu : 0 < unitsOf f := by
    rw [hv] at hf
    by_contra h
    have : unitsOf f = 0 := by omega
    simp [this] at hf
  rw [countAt, roundHalfUp_eq _ _ (Nat.mul_pos hd hu), exactCount, hv]
  congr 1
  rw [unitsPerOne]; push_cast
  have : (0:ℚ) < nthDivisor k := by exact_mod_cast hd
  have : (0:ℚ) < unitsOf f := by exact_mod_cast hu
  field_simp
  norm_num

/-- The divisor number k fits a frequency of `u` units. -/
def DivisorFits (clock u : ℕ) (k : Fin 7) : Prop :=
  1 ≤ countAt clock u (nthDivisor k) ∧ countAt clock u (nthDivisor k) ≤ 65535

/-- All that a successful `fit` can be: the first divisor that fits, with its count (rules R120, R121). -/
theorem fit_eq_some_iff {clock u : ℕ} {r : Fit} : fit clock u = some r ↔
    ∃ k : Fin 7, DivisorFits clock u k ∧ (∀ j < k, ¬ DivisorFits clock u j) ∧
      r = ⟨BitVec.ofNat 3 (k.val + 1), BitVec.ofNat 16 (countAt clock u (nthDivisor k))⟩ := by
  have first : ∀ c : Fin 7 → ℕ,
      (∃ k : Fin 7, (1 ≤ c k ∧ c k ≤ 65535) ∧ (∀ j < k, ¬ (1 ≤ c j ∧ c j ≤ 65535)) ∧
        r = ⟨BitVec.ofNat 3 (k.val + 1), BitVec.ofNat 16 (c k)⟩) ↔
      (if 1 ≤ c 0 ∧ c 0 ≤ 65535 then some (⟨1#3, BitVec.ofNat 16 (c 0)⟩ : Fit)
        else if 1 ≤ c 1 ∧ c 1 ≤ 65535 then some ⟨2#3, BitVec.ofNat 16 (c 1)⟩
        else if 1 ≤ c 2 ∧ c 2 ≤ 65535 then some ⟨3#3, BitVec.ofNat 16 (c 2)⟩
        else if 1 ≤ c 3 ∧ c 3 ≤ 65535 then some ⟨4#3, BitVec.ofNat 16 (c 3)⟩
        else if 1 ≤ c 4 ∧ c 4 ≤ 65535 then some ⟨5#3, BitVec.ofNat 16 (c 4)⟩
        else if 1 ≤ c 5 ∧ c 5 ≤ 65535 then some ⟨6#3, BitVec.ofNat 16 (c 5)⟩
        else if 1 ≤ c 6 ∧ c 6 ≤ 65535 then some ⟨7#3, BitVec.ofNat 16 (c 6)⟩
        else none) = some r := by
    intro c
    constructor
    · rintro ⟨k, hk, hj, rfl⟩
      fin_cases k
      · exact if_pos hk
      · rw [if_neg (hj 0 (by decide))]
        exact if_pos hk
      · rw [if_neg (hj 0 (by decide)), if_neg (hj 1 (by decide))]
        exact if_pos hk
      · rw [if_neg (hj 0 (by decide)), if_neg (hj 1 (by decide)), if_neg (hj 2 (by decide))]
        exact if_pos hk
      · rw [if_neg (hj 0 (by decide)), if_neg (hj 1 (by decide)), if_neg (hj 2 (by decide)),
          if_neg (hj 3 (by decide))]
        exact if_pos hk
      · rw [if_neg (hj 0 (by decide)), if_neg (hj 1 (by decide)), if_neg (hj 2 (by decide)),
          if_neg (hj 3 (by decide)), if_neg (hj 4 (by decide))]
        exact if_pos hk
      · rw [if_neg (hj 0 (by decide)), if_neg (hj 1 (by decide)), if_neg (hj 2 (by decide)),
          if_neg (hj 3 (by decide)), if_neg (hj 4 (by decide)), if_neg (hj 5 (by decide))]
        exact if_pos hk
    · intro h
      by_cases h0 : 1 ≤ c 0 ∧ c 0 ≤ 65535
      · rw [if_pos h0] at h
        exact ⟨0, h0, fun j hj => absurd hj (by omega), (Option.some.inj h).symm⟩
      rw [if_neg h0] at h
      by_cases h1 : 1 ≤ c 1 ∧ c 1 ≤ 65535
      · rw [if_pos h1] at h
        refine ⟨1, h1, fun j hj => ?_, (Option.some.inj h).symm⟩
        obtain rfl : j = 0 := by omega
        exact h0
      rw [if_neg h1] at h
      by_cases h2 : 1 ≤ c 2 ∧ c 2 ≤ 65535
      · rw [if_pos h2] at h
        refine ⟨2, h2, fun j hj => ?_, (Option.some.inj h).symm⟩
        obtain rfl | rfl : j = 0 ∨ j = 1 := by omega
        all_goals assumption
      rw [if_neg h2] at h
      by_cases h3 : 1 ≤ c 3 ∧ c 3 ≤ 65535
      · rw [if_pos h3] at h
        refine ⟨3, h3, fun j hj => ?_, (Option.some.inj h).symm⟩
        obtain rfl | rfl | rfl : j = 0 ∨ j = 1 ∨ j = 2 := by omega
        all_goals assumption
      rw [if_neg h3] at h
      by_cases h4 : 1 ≤ c 4 ∧ c 4 ≤ 65535
      · rw [if_pos h4] at h
        refine ⟨4, h4, fun j hj => ?_, (Option.some.inj h).symm⟩
        obtain rfl | rfl | rfl | rfl : j = 0 ∨ j = 1 ∨ j = 2 ∨ j = 3 := by omega
        all_goals assumption
      rw [if_neg h4] at h
      by_cases h5 : 1 ≤ c 5 ∧ c 5 ≤ 65535
      · rw [if_pos h5] at h
        refine ⟨5, h5, fun j hj => ?_, (Option.some.inj h).symm⟩
        obtain rfl | rfl | rfl | rfl | rfl : j = 0 ∨ j = 1 ∨ j = 2 ∨ j = 3 ∨ j = 4 := by omega
        all_goals assumption
      rw [if_neg h5] at h
      by_cases h6 : 1 ≤ c 6 ∧ c 6 ≤ 65535
      · rw [if_pos h6] at h
        refine ⟨6, h6, fun j hj => ?_, (Option.some.inj h).symm⟩
        obtain rfl | rfl | rfl | rfl | rfl | rfl : j = 0 ∨ j = 1 ∨ j = 2 ∨ j = 3 ∨ j = 4 ∨ j = 5 := by omega
        all_goals assumption
      rw [if_neg h6] at h
      cases h
  exact ((first fun k => countAt clock u (nthDivisor k)).trans Iff.rfl).symm

/-- `fit` is infeasible exactly when no divisor fits (rule R120). -/
theorem fit_eq_none_iff {clock u : ℕ} : fit clock u = none ↔ ∀ k : Fin 7, ¬ DivisorFits clock u k := by
  classical
  constructor
  · intro h k hk
    have hne : (Finset.univ.filter (DivisorFits clock u)).Nonempty := ⟨k, by simpa using hk⟩
    have hmin := Finset.min'_mem _ hne
    have hlow := fun j (hj : j < Finset.min' _ hne) => mt (Finset.min'_le _ j) (not_le.2 hj)
    simp only [Finset.mem_filter, Finset.mem_univ, true_and] at hmin hlow
    rw [fit_eq_some_iff.2 ⟨_, hmin, hlow, rfl⟩] at h
    cases h
  · intro h
    cases hf : fit clock u with
    | none => rfl
    | some r =>
      obtain ⟨k, hk, _⟩ := fit_eq_some_iff.1 hf
      exact absurd hk (h k)

/-- The exactly computed duty compare (rules R124, R125). -/
theorem dutyCompare_eq {d : Word} (hd : 0 < exactVal d) (ct : ℕ) :
    ((dutyCompare (unitsOf d) ct : ℕ) : ℤ) = exactDuty (exactVal d) ct := by
  rw [dutyCompare, roundHalfUp_eq _ _ (by rw [unitsPerOne]; positivity), exactDuty,
    exactVal_of_nonneg (signOf_of_pos hd), unitsPerOne]
  congr 1
  push_cast
  rw [div_mul_eq_mul_div, div_div, mul_comm (2 ^ 149 : ℚ) 100]
  norm_num

/-- All that the derivation can be. -/
theorem derive_eq {clock : ℕ} {f d : Word} :
    (fit clock (unitsOf f) = none ∧ derive clock f d = Derived.silent) ∨
    ∃ r, fit clock (unitsOf f) = some r ∧ derive clock f d =
      if dutyCompare (unitsOf d) r.ct.toNat = 0 ∨ r.ct.toNat ≤ dutyCompare (unitsOf d) r.ct.toNat
        then Derived.silent else Derived.ofFit clock r (dutyCompare (unitsOf d) r.ct.toNat) := by
  unfold derive
  cases fit clock (unitsOf f) with
  | none => exact .inl ⟨rfl, rfl⟩
  | some r => exact .inr ⟨r, rfl, rfl⟩

end Sys2Proof.Machine
end

