-- ==== Sys2Proof/Laws/Header.lean ====
section
/-! SUPPORT. What the header fields of an assembled header are, and the ranges of a register address
(rules R81, R86, R100). -/

namespace Sys2Proof

@[simp] theorem kindOf_mkHeader (k : BitVec 3) (l : Bool) (a : Addr) : kindOf (mkHeader k l a) = k := by
  apply BitVec.eq_of_getLsbD_eq
  intro i hi
  simp only [kindOf, mkHeader, BitVec.getLsbD_extractLsb', BitVec.getLsbD_append, BitVec.getLsbD_ofBool]
  interval_cases i <;> simp

@[simp] theorem rsvOf_mkHeader (k : BitVec 3) (l : Bool) (a : Addr) : rsvOf (mkHeader k l a) = 0#4 := by
  apply BitVec.eq_of_getLsbD_eq
  intro i hi
  simp only [rsvOf, mkHeader, BitVec.getLsbD_extractLsb', BitVec.getLsbD_append, BitVec.getLsbD_ofBool]
  interval_cases i <;> simp

@[simp] theorem lvlOf_mkHeader (k : BitVec 3) (l : Bool) (a : Addr) : lvlOf (mkHeader k l a) = l := by
  simp only [lvlOf, mkHeader, BitVec.getLsbD_append, BitVec.getLsbD_ofBool]
  simp

@[simp] theorem argOf_mkHeader (k : BitVec 3) (l : Bool) (a : Addr) : argOf (mkHeader k l a) = a := by
  apply BitVec.eq_of_getLsbD_eq
  intro i hi
  simp only [argOf, mkHeader, BitVec.getLsbD_extractLsb', BitVec.getLsbD_append, BitVec.getLsbD_ofBool]
  interval_cases i <;> simp

/-- A header is put together from its four fields. -/
theorem header_eq (h : Header) : h = kindOf h ++ rsvOf h ++ BitVec.ofBool (lvlOf h) ++ argOf h := by
  apply BitVec.eq_of_getLsbD_eq
  intro i hi
  simp only [kindOf, rsvOf, lvlOf, argOf, BitVec.getLsbD_append, BitVec.getLsbD_extractLsb',
    BitVec.getLsbD_ofBool]
  interval_cases i <;> simp

set_option maxRecDepth 4000 in
theorem groupOf_toNat (a : Addr) : (groupOf a).toNat = a.toNat / 4 := by
  revert a; decide

set_option maxRecDepth 4000 in
theorem indexOf_val (a : Addr) : (indexOf a).val = a.toNat % 4 := by
  revert a; decide

theorem elemAddr_toNat_lt {base : Addr} (h : base.toNat ≤ 0x1C) (i : Fin 4) :
    (elemAddr base i).toNat < 0x20 := by
  simp only [elemAddr, BitVec.toNat_add, BitVec.toNat_ofNat]
  omega

/-- The KIND of a header is one of the eight codes. -/
theorem kind_cases (k : BitVec 3) :
    k = 0#3 ∨ k = 1#3 ∨ k = 2#3 ∨ k = 3#3 ∨ k = 4#3 ∨ k = 5#3 ∨ k = 6#3 ∨ k = 7#3 := by
  revert k; decide

end Sys2Proof
end

