-- ==== Sys2Proof/Laws/State.lean ====
section
/-! SUPPORT. One lemma per field per named update of State, each true by rfl. -/

namespace Sys2Proof.Machine

variable (s : State)

@[simp] theorem State.emit_freq (e : Event) : (s.emit e).freq = s.freq := rfl
@[simp] theorem State.emit_duty (e : Event) : (s.emit e).duty = s.duty := rfl
@[simp] theorem State.emit_count (e : Event) : (s.emit e).count = s.count := rfl
@[simp] theorem State.emit_mode (e : Event) : (s.emit e).mode = s.mode := rfl
@[simp] theorem State.emit_derived (e : Event) : (s.emit e).derived = s.derived := rfl
@[simp] theorem State.emit_enable (e : Event) : (s.emit e).enable = s.enable := rfl
@[simp] theorem State.emit_confirm (e : Event) : (s.emit e).confirm = s.confirm := rfl
@[simp] theorem State.emit_ssd (e : Event) : (s.emit e).ssd = s.ssd := rfl
@[simp] theorem State.emit_tmask (e : Event) : (s.emit e).tmask = s.tmask := rfl
@[simp] theorem State.emit_tpol (e : Event) : (s.emit e).tpol = s.tpol := rfl
@[simp] theorem State.emit_tact (e : Event) : (s.emit e).tact = s.tact := rfl
@[simp] theorem State.emit_apol (e : Event) : (s.emit e).apol = s.apol := rfl
@[simp] theorem State.emit_aact (e : Event) : (s.emit e).aact = s.aact := rfl
@[simp] theorem State.emit_run (e : Event) : (s.emit e).run = s.run := rfl
@[simp] theorem State.emit_execState (e : Event) : (s.emit e).execState = s.execState := rfl
@[simp] theorem State.emit_rem (e : Event) : (s.emit e).rem = s.rem := rfl
@[simp] theorem State.emit_latched (e : Event) : (s.emit e).latched = s.latched := rfl
@[simp] theorem State.emit_startLatch (e : Event) : (s.emit e).startLatch = s.startLatch := rfl
@[simp] theorem State.emit_stopLatch (e : Event) : (s.emit e).stopLatch = s.stopLatch := rfl
@[simp] theorem State.emit_evtEn (e : Event) : (s.emit e).evtEn = s.evtEn := rfl
@[simp] theorem State.emit_clockHz (e : Event) : (s.emit e).clockHz = s.clockHz := rfl
@[simp] theorem State.emit_port (e : Event) : (s.emit e).port = s.port := rfl
@[simp] theorem State.emit_arb (e : Event) : (s.emit e).arb = s.arb := rfl
@[simp] theorem State.emit_draws (e : Event) : (s.emit e).draws = s.draws := rfl
@[simp] theorem State.emit_resp (e : Event) : (s.emit e).resp = s.resp := rfl
@[simp] theorem State.emit_events (e : Event) : (s.emit e).events = s.events ++ [e] := rfl

@[simp] theorem State.respond_freq (ok : Bool) (w : Word) : (s.respond ok w).freq = s.freq := rfl
@[simp] theorem State.respond_duty (ok : Bool) (w : Word) : (s.respond ok w).duty = s.duty := rfl
@[simp] theorem State.respond_count (ok : Bool) (w : Word) : (s.respond ok w).count = s.count := rfl
@[simp] theorem State.respond_mode (ok : Bool) (w : Word) : (s.respond ok w).mode = s.mode := rfl
@[simp] theorem State.respond_derived (ok : Bool) (w : Word) : (s.respond ok w).derived = s.derived := rfl
@[simp] theorem State.respond_enable (ok : Bool) (w : Word) : (s.respond ok w).enable = s.enable := rfl
@[simp] theorem State.respond_confirm (ok : Bool) (w : Word) : (s.respond ok w).confirm = s.confirm := rfl
@[simp] theorem State.respond_ssd (ok : Bool) (w : Word) : (s.respond ok w).ssd = s.ssd := rfl
@[simp] theorem State.respond_tmask (ok : Bool) (w : Word) : (s.respond ok w).tmask = s.tmask := rfl
@[simp] theorem State.respond_tpol (ok : Bool) (w : Word) : (s.respond ok w).tpol = s.tpol := rfl
@[simp] theorem State.respond_tact (ok : Bool) (w : Word) : (s.respond ok w).tact = s.tact := rfl
@[simp] theorem State.respond_apol (ok : Bool) (w : Word) : (s.respond ok w).apol = s.apol := rfl
@[simp] theorem State.respond_aact (ok : Bool) (w : Word) : (s.respond ok w).aact = s.aact := rfl
@[simp] theorem State.respond_run (ok : Bool) (w : Word) : (s.respond ok w).run = s.run := rfl
@[simp] theorem State.respond_execState (ok : Bool) (w : Word) : (s.respond ok w).execState = s.execState := rfl
@[simp] theorem State.respond_rem (ok : Bool) (w : Word) : (s.respond ok w).rem = s.rem := rfl
@[simp] theorem State.respond_latched (ok : Bool) (w : Word) : (s.respond ok w).latched = s.latched := rfl
@[simp] theorem State.respond_startLatch (ok : Bool) (w : Word) : (s.respond ok w).startLatch = s.startLatch := rfl
@[simp] theorem State.respond_stopLatch (ok : Bool) (w : Word) : (s.respond ok w).stopLatch = s.stopLatch := rfl
@[simp] theorem State.respond_evtEn (ok : Bool) (w : Word) : (s.respond ok w).evtEn = s.evtEn := rfl
@[simp] theorem State.respond_clockHz (ok : Bool) (w : Word) : (s.respond ok w).clockHz = s.clockHz := rfl
@[simp] theorem State.respond_port (ok : Bool) (w : Word) : (s.respond ok w).port = s.port := rfl
@[simp] theorem State.respond_arb (ok : Bool) (w : Word) : (s.respond ok w).arb = s.arb := rfl
@[simp] theorem State.respond_draws (ok : Bool) (w : Word) : (s.respond ok w).draws = s.draws := rfl
@[simp] theorem State.respond_resp (ok : Bool) (w : Word) : (s.respond ok w).resp = some ⟨ok, w⟩ := rfl
@[simp] theorem State.respond_events (ok : Bool) (w : Word) : (s.respond ok w).events = s.events := rfl

@[simp] theorem State.openRequest_freq : (s.openRequest).freq = s.freq := rfl
@[simp] theorem State.openRequest_duty : (s.openRequest).duty = s.duty := rfl
@[simp] theorem State.openRequest_count : (s.openRequest).count = s.count := rfl
@[simp] theorem State.openRequest_mode : (s.openRequest).mode = s.mode := rfl
@[simp] theorem State.openRequest_derived : (s.openRequest).derived = s.derived := rfl
@[simp] theorem State.openRequest_enable : (s.openRequest).enable = s.enable := rfl
@[simp] theorem State.openRequest_confirm : (s.openRequest).confirm = s.confirm := rfl
@[simp] theorem State.openRequest_ssd : (s.openRequest).ssd = s.ssd := rfl
@[simp] theorem State.openRequest_tmask : (s.openRequest).tmask = s.tmask := rfl
@[simp] theorem State.openRequest_tpol : (s.openRequest).tpol = s.tpol := rfl
@[simp] theorem State.openRequest_tact : (s.openRequest).tact = s.tact := rfl
@[simp] theorem State.openRequest_apol : (s.openRequest).apol = s.apol := rfl
@[simp] theorem State.openRequest_aact : (s.openRequest).aact = s.aact := rfl
@[simp] theorem State.openRequest_run : (s.openRequest).run = s.run := rfl
@[simp] theorem State.openRequest_execState : (s.openRequest).execState = s.execState := rfl
@[simp] theorem State.openRequest_rem : (s.openRequest).rem = s.rem := rfl
@[simp] theorem State.openRequest_latched : (s.openRequest).latched = s.latched := rfl
@[simp] theorem State.openRequest_startLatch : (s.openRequest).startLatch = s.startLatch := rfl
@[simp] theorem State.openRequest_stopLatch : (s.openRequest).stopLatch = s.stopLatch := rfl
@[simp] theorem State.openRequest_evtEn : (s.openRequest).evtEn = s.evtEn := rfl
@[simp] theorem State.openRequest_clockHz : (s.openRequest).clockHz = s.clockHz := rfl
@[simp] theorem State.openRequest_port : (s.openRequest).port = s.port := rfl
@[simp] theorem State.openRequest_arb : (s.openRequest).arb = s.arb := rfl
@[simp] theorem State.openRequest_draws : (s.openRequest).draws = s.draws := rfl
@[simp] theorem State.openRequest_resp : (s.openRequest).resp = s.resp := rfl
@[simp] theorem State.openRequest_events : (s.openRequest).events = [] := rfl

@[simp] theorem updateDerived_freq (c : Nat) (i : Chan) : (updateDerived c i s).freq = s.freq := rfl
@[simp] theorem updateDerived_duty (c : Nat) (i : Chan) : (updateDerived c i s).duty = s.duty := rfl
@[simp] theorem updateDerived_count (c : Nat) (i : Chan) : (updateDerived c i s).count = s.count := rfl
@[simp] theorem updateDerived_mode (c : Nat) (i : Chan) : (updateDerived c i s).mode = s.mode := rfl
@[simp] theorem updateDerived_derived (c : Nat) (i : Chan) : (updateDerived c i s).derived = s.derived.set i (derive c (s.freq.get i) (s.duty.get i)) := rfl
@[simp] theorem updateDerived_enable (c : Nat) (i : Chan) : (updateDerived c i s).enable = s.enable := rfl
@[simp] theorem updateDerived_confirm (c : Nat) (i : Chan) : (updateDerived c i s).confirm = s.confirm := rfl
@[simp] theorem updateDerived_ssd (c : Nat) (i : Chan) : (updateDerived c i s).ssd = s.ssd := rfl
@[simp] theorem updateDerived_tmask (c : Nat) (i : Chan) : (updateDerived c i s).tmask = s.tmask := rfl
@[simp] theorem updateDerived_tpol (c : Nat) (i : Chan) : (updateDerived c i s).tpol = s.tpol := rfl
@[simp] theorem updateDerived_tact (c : Nat) (i : Chan) : (updateDerived c i s).tact = s.tact := rfl
@[simp] theorem updateDerived_apol (c : Nat) (i : Chan) : (updateDerived c i s).apol = s.apol := rfl
@[simp] theorem updateDerived_aact (c : Nat) (i : Chan) : (updateDerived c i s).aact = s.aact := rfl
@[simp] theorem updateDerived_run (c : Nat) (i : Chan) : (updateDerived c i s).run = s.run := rfl
@[simp] theorem updateDerived_execState (c : Nat) (i : Chan) : (updateDerived c i s).execState = s.execState := rfl
@[simp] theorem updateDerived_rem (c : Nat) (i : Chan) : (updateDerived c i s).rem = s.rem := rfl
@[simp] theorem updateDerived_latched (c : Nat) (i : Chan) : (updateDerived c i s).latched = s.latched := rfl
@[simp] theorem updateDerived_startLatch (c : Nat) (i : Chan) : (updateDerived c i s).startLatch = s.startLatch := rfl
@[simp] theorem updateDerived_stopLatch (c : Nat) (i : Chan) : (updateDerived c i s).stopLatch = s.stopLatch := rfl
@[simp] theorem updateDerived_evtEn (c : Nat) (i : Chan) : (updateDerived c i s).evtEn = s.evtEn := rfl
@[simp] theorem updateDerived_clockHz (c : Nat) (i : Chan) : (updateDerived c i s).clockHz = s.clockHz := rfl
@[simp] theorem updateDerived_port (c : Nat) (i : Chan) : (updateDerived c i s).port = s.port := rfl
@[simp] theorem updateDerived_arb (c : Nat) (i : Chan) : (updateDerived c i s).arb = s.arb := rfl
@[simp] theorem updateDerived_draws (c : Nat) (i : Chan) : (updateDerived c i s).draws = s.draws := rfl
@[simp] theorem updateDerived_resp (c : Nat) (i : Chan) : (updateDerived c i s).resp = s.resp := rfl
@[simp] theorem updateDerived_events (c : Nat) (i : Chan) : (updateDerived c i s).events = s.events := rfl

end Sys2Proof.Machine
end

