-- ==== Sys2Proof/Laws/Ops.lean ====
section
/-! SUPPORT. One lemma per shared operation, saying once everything it does: the start and stop primitives,
the batches and commands in closed form, the fold, and the ways to serve a request. -/

namespace Sys2Proof.Machine

/-! ### Starts and stops in closed form, before the fold -/

/-- `s` with the channels of `g` started, programmed in the order `visits`. -/
def started (g : Mask) (visits : List Chan) (s : State) : State :=
  { s with
    run := s.run ||| g
    rem := pick g s.count s.rem
    latched := pick g (nextLatched s) s.latched
    events := s.events ++ visits.map fun i => programEvent (s.derived.get i) i }

/-- `s` with the channels of `g` stopped, halted in the order `visits`. -/
def halted (g : Mask) (visits : List Chan) (s : State) : State :=
  { s with
    run := s.run &&& ~~~g
    enable := s.enable &&& ~~~(g &&& s.ssd)
    events := s.events ++ visits.map Event.tmrHalt }

theorem pick_pick {α : Type} (g h : Mask) (new old : Quad α) :
    pick h new (pick g new old) = pick (g ||| h) new old :=
  Quad.ext_get fun i => by
    simp only [pick_get, getLsbD_mask_or]
    cases g.getLsbD i.val <;> cases h.getLsbD i.val <;> rfl

theorem started_started (g h : Mask) (v w : List Chan) (s : State) :
    started h w (started g v s) = started (g ||| h) (v ++ w) s := by
  simp only [started, nextLatched, pick_pick, BitVec.or_assoc, List.map_append, List.append_assoc]

theorem halted_halted (g h : Mask) (v w : List Chan) (s : State) :
    halted h w (halted g v s) = halted (g ||| h) (v ++ w) s := by
  have run_eq : s.run &&& ~~~g &&& ~~~h = s.run &&& ~~~(g ||| h) :=
    mask_ext fun i => by simp [Bool.and_assoc]
  have enable_eq : s.enable &&& ~~~(g &&& s.ssd) &&& ~~~(h &&& s.ssd) = s.enable &&& ~~~((g ||| h) &&& s.ssd) :=
    mask_ext fun i => by
      simp only [getLsbD_mask_and, getLsbD_mask_or, getLsbD_mask_not]
      cases s.enable.getLsbD i.val <;> cases g.getLsbD i.val <;> cases h.getLsbD i.val <;>
        cases s.ssd.getLsbD i.val <;> rfl
  simp only [halted, run_eq, enable_eq, List.map_append, List.append_assoc]

theorem started_nothing (s : State) : started 0#4 [] s = s := by
  have hp : ∀ {α : Type} (new old : Quad α), pick 0#4 new old = old := fun new old =>
    Quad.ext_get fun i => by simp
  simp [started, hp]

theorem halted_nothing (s : State) : halted 0#4 [] s = s := by
  have h : ∀ m n : Mask, m &&& ~~~(0#4 &&& n) = m := by decide
  have h' : ∀ m : Mask, m &&& ~~~0#4 = m := by decide
  simp only [halted, h, h', List.map_nil, List.append_nil]

/-! ### The primitives -/

theorem getLsbD_bit (i j : Chan) : (1#4 <<< i.val).getLsbD j.val = decide (j = i) := by
  revert i j; decide

/-- All that `start(i)` can do (rules R140 to R142). -/
theorem start_eq (i : Chan) (s : State) :
    start i s = if !s.run.getLsbD i.val && s.startAllowed i then (started (1#4 <<< i.val) [i] s, true)
      else (s, false) := by
  have hp : ∀ {α : Type} (new old : Quad α), pick (1#4 <<< i.val) new old = old.set i (new.get i) :=
    fun new old => Quad.ext_get fun j => by
      rw [pick_get, Quad.get_set, getLsbD_bit]
      by_cases h : j = i
      · subst h; simp only [decide_true, if_true]
      · simp only [h, decide_false, Bool.false_eq_true, if_false]
  unfold start
  cases hr : s.run.getLsbD i.val <;> cases ha : s.startAllowed i <;>
    simp only [Bool.not_true, Bool.not_false, Bool.and_true, Bool.and_false, if_true, if_false,
      Bool.false_eq_true, started, hp, nextLatched_get, setBit, State.emit, List.map_cons, List.map_nil]

/-- All that `stop(i)` can do (rules R143, R144). -/
theorem stop_eq (i : Chan) (s : State) :
    stop i s = if s.run.getLsbD i.val then (halted (1#4 <<< i.val) [i] s, true) else (s, false) := by
  have he : s.enable &&& ~~~(1#4 <<< i.val &&& s.ssd)
      = if s.ssd.getLsbD i.val = true then clearBit s.enable i else s.enable :=
    mask_ext fun j => by
      simp only [getLsbD_mask_and, getLsbD_mask_not, getLsbD_bit]
      by_cases hj : j = i
      · subst hj
        cases h : s.ssd.getLsbD j.val <;>
          simp only [if_true, if_false, Bool.false_eq_true, getLsbD_clearBit, decide_true,
            Bool.not_true, Bool.not_false, Bool.and_true, Bool.and_false, Bool.false_and]
      · cases h : s.ssd.getLsbD i.val <;>
          simp only [hj, if_true, if_false, Bool.false_eq_true, getLsbD_clearBit, decide_false,
            Bool.false_and, Bool.not_false, Bool.and_true, Bool.true_and]
  unfold stop
  cases hr : s.run.getLsbD i.val
  · simp only [Bool.not_false, if_true, Bool.false_eq_true, if_false]
  · simp only [Bool.not_true, if_true, Bool.false_eq_true, if_false, halted, he, State.emit, clearBit,
      List.map_cons, List.map_nil]
    by_cases h : s.ssd.getLsbD i.val = true
    · rw [if_pos h]; exact congrArg (·, true) (if_pos h)
    · rw [if_neg h]; exact congrArg (·, true) (if_neg h)

/-! ### Batches and commands -/

/-- The channels of `m` that a start still changes once those of `g` are started. -/
theorem startable_started (m g : Mask) (v : List Chan) (s : State) :
    startable m (started g v s) = startable m s &&& ~~~g :=
  mask_ext fun i => by
    simp only [startable_getLsbD, getLsbD_mask_and, getLsbD_mask_not]
    show (m.getLsbD i.val && !(s.run ||| g).getLsbD i.val && s.startAllowed i) = _
    rw [getLsbD_mask_or]
    cases m.getLsbD i.val <;> cases s.run.getLsbD i.val <;> cases g.getLsbD i.val <;>
      cases s.startAllowed i <;> rfl

/-- One channel of a batch of starts. -/
theorem start_one (m : Mask) (i : Chan) (s : State) :
    (if m.getLsbD i.val then (start i s).1 else s)
      = started (startable m s &&& 1#4 <<< i.val) (if (startable m s).getLsbD i.val then [i] else []) s := by
  have hm : startable m s &&& 1#4 <<< i.val = if (startable m s).getLsbD i.val then 1#4 <<< i.val else 0#4 := by
    generalize startable m s = g
    revert g i; decide
  rw [hm, startable_getLsbD, start_eq]
  cases m.getLsbD i.val <;> cases s.run.getLsbD i.val <;> cases s.startAllowed i <;>
    simp only [Bool.not_true, Bool.not_false, Bool.and_true, Bool.and_false,
      if_true, if_false, Bool.false_eq_true, started_nothing]

/-- One channel of a batch of stops. -/
theorem stop_one (m : Mask) (i : Chan) (s : State) :
    (if m.getLsbD i.val then (stop i s).1 else s)
      = halted ((m &&& s.run) &&& 1#4 <<< i.val) (if (m &&& s.run).getLsbD i.val then [i] else []) s := by
  have hm : (m &&& s.run) &&& 1#4 <<< i.val = if (m &&& s.run).getLsbD i.val then 1#4 <<< i.val else 0#4 := by
    generalize m &&& s.run = g
    revert g i; decide
  rw [hm, getLsbD_mask_and, stop_eq]
  cases m.getLsbD i.val <;> cases s.run.getLsbD i.val <;>
    simp only [Bool.and_true, Bool.and_false,
      if_true, if_false, Bool.false_eq_true, halted_nothing, Bool.and_self]

/-- `batch_start(M)` starts exactly the startable channels of M, in ascending order (rule R151). -/
theorem batchStart_eq (m : Mask) (s : State) :
    batchStart m s = started (startable m s) (members (startable m s)) s := by
  simp only [batchStart, forMask, allFour, List.foldl_cons, List.foldl_nil, start_one, startable_started,
    started_started]
  generalize startable m s = g
  congr 1
  · revert g; decide
  · revert g; decide

/-- `batch_stop(M)` stops exactly the running channels of M, in ascending order (rule R151). -/
theorem batchStop_eq (m : Mask) (s : State) :
    batchStop m s = halted (m &&& s.run) (members (m &&& s.run)) s := by
  have hr : ∀ (g : Mask) (v : List Chan), m &&& (halted g v s).run = m &&& s.run &&& ~~~g := fun g v =>
    (BitVec.and_assoc ..).symm
  simp only [batchStop, forMask, allFour, List.foldl_cons, List.foldl_nil, stop_one, hr, halted_halted]
  generalize m &&& s.run = g
  congr 1
  · revert g; decide
  · revert g; decide

/-- A loop over a mask is a loop over its members. -/
theorem forMask_eq (m : Mask) (f : Fin 4 → State → State) (s : State) :
    forMask m f s = (members m).foldl (fun t i => f i t) s := by
  unfold forMask members
  rw [List.foldl_filter]

theorem foldl_batchStart (ks : List Src) (s : State) (g : Mask) (v : List Chan) :
    ks.foldl (fun t k => batchStart (t.tmask.get k) t) (started g v s)
      = started (g ||| startable (unionOf (ks.map s.tmask.get)) s)
          (v ++ visitOrder (~~~startable 15#4 s ||| g) (ks.map s.tmask.get)) s := by
  induction ks generalizing g v with
  | nil =>
    have : startable 0#4 s = 0#4 := mask_ext fun i => by
      simp only [startable_getLsbD, getLsbD_mask_zero, Bool.false_and]
    simp only [List.foldl_nil, List.map_nil, unionOf, List.foldr_nil, this, BitVec.or_zero, visitOrder,
      List.append_nil]
  | cons k ks ih =>
    rw [List.foldl_cons]
    show List.foldl _ (batchStart (s.tmask.get k) (started g v s)) ks = _
    rw [batchStart_eq, startable_started, started_started, ih]
    simp only [List.map_cons, unionOf, List.foldr_cons, visitOrder, List.append_assoc]
    have hg : startable (s.tmask.get k) s &&& ~~~g = s.tmask.get k &&& ~~~(~~~startable 15#4 s ||| g) :=
      mask_ext fun i => by
        simp only [getLsbD_mask_and, getLsbD_mask_not, getLsbD_mask_or, startable_getLsbD, getLsbD_mask_full]
        cases (s.tmask.get k).getLsbD i.val <;> cases s.run.getLsbD i.val <;> cases s.startAllowed i <;>
          cases g.getLsbD i.val <;> rfl
    have hseen : ~~~startable 15#4 s ||| (g ||| startable (s.tmask.get k) s &&& ~~~g)
        = ~~~startable 15#4 s ||| g ||| s.tmask.get k :=
      mask_ext fun i => by
        simp only [getLsbD_mask_and, getLsbD_mask_not, getLsbD_mask_or, startable_getLsbD, getLsbD_mask_full]
        cases (s.tmask.get k).getLsbD i.val <;> cases s.run.getLsbD i.val <;> cases s.startAllowed i <;>
          cases g.getLsbD i.val <;> rfl
    congr 1
    · exact mask_ext fun i => by
        simp only [getLsbD_mask_and, getLsbD_mask_not, getLsbD_mask_or, startable_getLsbD]
        cases (s.tmask.get k).getLsbD i.val <;> cases s.run.getLsbD i.val <;> cases s.startAllowed i <;>
          cases g.getLsbD i.val <;> simp only [Bool.and_true, Bool.and_false, Bool.or_true, Bool.or_false,
            Bool.true_or, Bool.false_or, Bool.not_true, Bool.not_false]
    · rw [hseen, hg]

/-- `cmd_start(v)`: every startable channel of the selected masks, once, in the order of the first visit
(rule R178). -/
theorem cmdStart_eq (v : Mask) (s : State) :
    cmdStart v s = started (startable (unionOf (selectedMasks v s)) s)
      (visitOrder (~~~startable 15#4 s) (selectedMasks v s)) s := by
  have h := foldl_batchStart (members v) s 0#4 []
  rw [started_nothing] at h
  rw [cmdStart, forMask_eq, h, BitVec.zero_or, BitVec.or_zero, List.nil_append]
  rfl

theorem foldl_batchStop (ks : List Src) (s : State) (g : Mask) (v : List Chan) :
    ks.foldl (fun t k => batchStop (t.tmask.get k) t) (halted g v s)
      = halted (g ||| (unionOf (ks.map s.tmask.get) &&& s.run))
          (v ++ visitOrder (~~~s.run ||| g) (ks.map s.tmask.get)) s := by
  induction ks generalizing g v with
  | nil =>
    simp only [List.foldl_nil, List.map_nil, unionOf, List.foldr_nil, BitVec.zero_and, BitVec.or_zero, visitOrder,
      List.append_nil]
  | cons k ks ih =>
    have hr : ∀ m : Mask, m &&& (halted g v s).run = m &&& s.run &&& ~~~g := fun m =>
      (BitVec.and_assoc ..).symm
    rw [List.foldl_cons]
    show List.foldl _ (batchStop (s.tmask.get k) (halted g v s)) ks = _
    rw [batchStop_eq, hr, halted_halted, ih]
    simp only [List.map_cons, unionOf, List.foldr_cons, visitOrder, List.append_assoc]
    have hg : s.tmask.get k &&& s.run &&& ~~~g = s.tmask.get k &&& ~~~(~~~s.run ||| g) :=
      mask_ext fun i => by
        simp only [getLsbD_mask_and, getLsbD_mask_not, getLsbD_mask_or]
        cases (s.tmask.get k).getLsbD i.val <;> cases s.run.getLsbD i.val <;> cases g.getLsbD i.val <;> rfl
    have hseen : ~~~s.run ||| (g ||| s.tmask.get k &&& s.run &&& ~~~g) = ~~~s.run ||| g ||| s.tmask.get k :=
      mask_ext fun i => by
        simp only [getLsbD_mask_and, getLsbD_mask_not, getLsbD_mask_or]
        cases (s.tmask.get k).getLsbD i.val <;> cases s.run.getLsbD i.val <;> cases g.getLsbD i.val <;> rfl
    congr 1
    · exact mask_ext fun i => by
        simp only [getLsbD_mask_and, getLsbD_mask_not, getLsbD_mask_or]
        cases (s.tmask.get k).getLsbD i.val <;> cases s.run.getLsbD i.val <;> cases g.getLsbD i.val <;>
          simp only [Bool.and_true, Bool.and_false, Bool.or_true, Bool.or_false,
            Bool.true_or, Bool.false_or, Bool.not_true, Bool.not_false]
    · rw [hseen, hg]

/-- `cmd_stop(v)`: every running channel of the selected masks, once, in the order of the first visit
(rule R179). -/
theorem cmdStop_eq (v : Mask) (s : State) :
    cmdStop v s = halted (unionOf (selectedMasks v s) &&& s.run)
      (visitOrder (~~~s.run) (selectedMasks v s)) s := by
  have h := foldl_batchStop (members v) s 0#4 []
  rw [halted_nothing] at h
  rw [cmdStop, forMask_eq, h, BitVec.zero_or, BitVec.or_zero, List.nil_append]
  rfl

/-! ### The order of visits -/

theorem nodup_members (m : Mask) : (members m).Nodup := by
  revert m; decide

theorem getLsbD_unionOf {ms : List Mask} {i : Chan} :
    (unionOf ms).getLsbD i.val = true ↔ ∃ m ∈ ms, m.getLsbD i.val = true := by
  induction ms with
  | nil => simp [unionOf]
  | cons m ms ih =>
    show (m ||| unionOf ms).getLsbD i.val = true ↔ _
    rw [getLsbD_mask_or, Bool.or_eq_true, ih]
    simp

/-- The visits are the channels of the masks that `seen` leaves. -/
theorem mem_visitOrder {seen : Mask} {ms : List Mask} {i : Chan} :
    i ∈ visitOrder seen ms ↔ (unionOf ms &&& ~~~seen).getLsbD i.val = true := by
  induction ms generalizing seen with
  | nil => simp [visitOrder, unionOf]
  | cons m ms ih =>
    show i ∈ members (m &&& ~~~seen) ++ visitOrder (seen ||| m) ms ↔
      ((m ||| unionOf ms) &&& ~~~seen).getLsbD i.val = true
    rw [List.mem_append, ih, mem_members]
    simp only [getLsbD_mask_and, getLsbD_mask_or, getLsbD_mask_not]
    cases m.getLsbD i.val <;> cases seen.getLsbD i.val <;> cases (unionOf ms).getLsbD i.val <;> simp

/-- No channel is visited twice. -/
theorem nodup_visitOrder (seen : Mask) (ms : List Mask) : (visitOrder seen ms).Nodup := by
  induction ms generalizing seen with
  | nil => exact List.nodup_nil
  | cons m ms ih =>
    refine List.Nodup.append (nodup_members _) (ih _) fun i h1 h2 => ?_
    rw [mem_members] at h1
    rw [mem_visitOrder] at h2
    simp only [getLsbD_mask_and, getLsbD_mask_or, getLsbD_mask_not] at h1 h2
    revert h1 h2
    cases m.getLsbD i.val <;> cases seen.getLsbD i.val <;> cases (unionOf ms).getLsbD i.val <;> simp

/-! ### Serving a request -/

/-- The fold: EXEC follows RUN, and NOTIFY is emitted exactly when EXEC differs from `old` (rule R150). -/
theorem fold_eq (old : Mask) (s : State) :
    fold old s = { s with
      execState := s.run
      events := s.events ++ if s.run ≠ old ∧ s.evtEn = true then [.notify 0x28#8] else [] } := by
  unfold fold
  split
  · rename_i h; rw [if_pos h]; rfl
  · rename_i h; rw [if_neg h, List.append_nil]

/-- The TMR_HALT events of POWER_DOWN and RESET: one per running channel, ascending (rules R290, R300). -/
theorem haltRunning_eq (s : State) :
    haltRunning s = { s with events := s.events ++ (members s.run).map Event.tmrHalt } := by
  rw [haltRunning, forMask_eq]
  generalize members s.run = l
  induction l generalizing s with
  | nil => simp only [List.foldl_nil, List.map_nil, List.append_nil]
  | cons i l ih =>
    rw [List.foldl_cons, ih]
    simp only [State.emit, List.map_cons, List.append_assoc, List.cons_append, List.nil_append]

/-- `update_derived` of all four channels: every channel gets its derivation, nothing else changes (rule R300). -/
theorem deriveAll_eq (clock : Nat) (s : State) :
    deriveAll clock s = { s with derived := .ofFn fun i => derive clock (s.freq.get i) (s.duty.get i) } := by
  simp only [deriveAll, updateDerived]
  generalize derive clock = d
  rfl

/-- The reset state at the clock of this hardware is `State.reset` (rules R8, R301). -/
theorem resetAt_32MHz : State.resetAt 32000000 = State.reset := by decide +kernel

/-- A host write either has its effect and answers (1, 0), or changes nothing and answers (0, 0). -/
theorem serveWrite_eq (legal : Bool) (s : State) (f : State → State) :
    serveWrite legal s f = .next (if legal then (f s.openRequest).respond true 0#32
      else s.openRequest.respond false 0#32) := rfl

/-- A batch request whose body starts the channels of `g`. -/
theorem serveBatch_started {s : State} {f : State → State} {g : Mask} {v : List Chan}
    (h : f s.openRequest = started g v s.openRequest) : serveBatch s f = .next (afterStarts g v s) := by
  simp only [serveBatch, serve, h, fold_eq]
  simp only [started, afterStarts, notifyFor, State.respond, State.openRequest, List.nil_append]
  rfl

/-- A batch request whose body stops the channels of `g`. -/
theorem serveBatch_halted {s : State} {f : State → State} {g : Mask} {v : List Chan}
    (h : f s.openRequest = halted g v s.openRequest) : serveBatch s f = .next (afterStops g v s) := by
  simp only [serveBatch, serve, h, fold_eq]
  simp only [halted, afterStops, notifyFor, State.respond, State.openRequest, List.nil_append]
  rfl

/-- Every way of serving a request answers a next state (rules R73, R270). -/
theorem exec_next (i : Instr) (s : State) : ∃ t, exec i s = .next t := by
  cases i <;> exact ⟨_, rfl⟩

end Sys2Proof.Machine
end

