-- ==== Sys2Proof/Laws/PerInstr.lean ====
section
/-! SUPPORT. The family EncodingLegal of LAWS.json: the encoding of every instruction is a legal request, a
header that rule R87 does not list. -/

namespace Sys2Proof.Laws.EncodingLegal

def Statement (i : Instr) : Prop := (encode i).wellFormed = true

theorem write_legal {a : Addr} (v : Word) (h : a.toNat ≤ 0x29) : (wrRequest a v).wellFormed = true := by
  simp [wrRequest, Request.wellFormed, rsvClear, kindDefined, levelAllowed, addressMapped, indexInRange,
    argClear, h]

theorem read_legal {a : Addr} (h : a.toNat ≤ 0x29) : (rdRequest a).wellFormed = true := by
  simp [rdRequest, Request.wellFormed, rsvClear, kindDefined, levelAllowed, addressMapped, indexInRange,
    argClear, h]

theorem elem_le {base : Addr} (h : base.toNat ≤ 0x1C) (k : Fin 4) : (elemAddr base k).toNat ≤ 0x29 :=
  le_trans (Nat.le_of_lt (elemAddr_toNat_lt h k)) (by decide)

theorem wrFreq (k : Fin 4) (v : Word) : Statement (.wrFreq k v) := write_legal v (elem_le (by decide) k)
theorem wrDuty (k : Fin 4) (v : Word) : Statement (.wrDuty k v) := write_legal v (elem_le (by decide) k)
theorem wrCount (k : Fin 4) (v : Word) : Statement (.wrCount k v) := write_legal v (elem_le (by decide) k)
theorem wrMode (k : Fin 4) (v : Word) : Statement (.wrMode k v) := write_legal v (elem_le (by decide) k)
theorem wrRealFreq (k : Fin 4) (v : Word) : Statement (.wrRealFreq k v) := write_legal v (elem_le (by decide) k)
theorem wrRealDuty (k : Fin 4) (v : Word) : Statement (.wrRealDuty k v) := write_legal v (elem_le (by decide) k)
theorem wrTrigMask (k : Fin 4) (v : Word) : Statement (.wrTrigMask k v) := write_legal v (elem_le (by decide) k)
theorem wrTrigMode (k : Fin 4) (v : Word) : Statement (.wrTrigMode k v) := write_legal v (elem_le (by decide) k)
theorem wrAllMode (v : Word) : Statement (.wrAllMode v) := write_legal v (by decide)
theorem wrStart (v : Word) : Statement (.wrStart v) := write_legal v (by decide)
theorem wrStop (v : Word) : Statement (.wrStop v) := write_legal v (by decide)
theorem wrEnable (v : Word) : Statement (.wrEnable v) := write_legal v (by decide)
theorem wrConfirm (v : Word) : Statement (.wrConfirm v) := write_legal v (by decide)
theorem wrSingleShot (v : Word) : Statement (.wrSingleShot v) := write_legal v (by decide)
theorem wrTrigState (v : Word) : Statement (.wrTrigState v) := write_legal v (by decide)
theorem wrRunState (v : Word) : Statement (.wrRunState v) := write_legal v (by decide)
theorem wrExecState (v : Word) : Statement (.wrExecState v) := write_legal v (by decide)
theorem wrEvtEn (v : Word) : Statement (.wrEvtEn v) := write_legal v (by decide)
theorem rdFreq (k : Fin 4) : Statement (.rdFreq k) := read_legal (elem_le (by decide) k)
theorem rdDuty (k : Fin 4) : Statement (.rdDuty k) := read_legal (elem_le (by decide) k)
theorem rdCount (k : Fin 4) : Statement (.rdCount k) := read_legal (elem_le (by decide) k)
theorem rdMode (k : Fin 4) : Statement (.rdMode k) := read_legal (elem_le (by decide) k)
theorem rdRealFreq (k : Fin 4) : Statement (.rdRealFreq k) := read_legal (elem_le (by decide) k)
theorem rdRealDuty (k : Fin 4) : Statement (.rdRealDuty k) := read_legal (elem_le (by decide) k)
theorem rdTrigMask (k : Fin 4) : Statement (.rdTrigMask k) := read_legal (elem_le (by decide) k)
theorem rdTrigMode (k : Fin 4) : Statement (.rdTrigMode k) := read_legal (elem_le (by decide) k)
theorem rdAllMode : Statement .rdAllMode := read_legal (by decide)
theorem rdStart : Statement .rdStart := read_legal (by decide)
theorem rdStop : Statement .rdStop := read_legal (by decide)
theorem rdEnable : Statement .rdEnable := read_legal (by decide)
theorem rdConfirm : Statement .rdConfirm := read_legal (by decide)
theorem rdSingleShot : Statement .rdSingleShot := read_legal (by decide)
theorem rdTrigState : Statement .rdTrigState := read_legal (by decide)
theorem rdRunState : Statement .rdRunState := read_legal (by decide)
theorem rdExecState : Statement .rdExecState := read_legal (by decide)
theorem rdEvtEn : Statement .rdEvtEn := read_legal (by decide)
theorem edge (k : Src) (lvl : Bool) : Statement (.edge k lvl) := by revert k lvl; unfold Statement; decide
theorem edgeAll (lvl : Bool) : Statement (.edgeAll lvl) := by revert lvl; unfold Statement; decide
theorem pulse (k : Chan) : Statement (.pulse k) := by revert k; unfold Statement; decide
theorem powerDown : Statement .powerDown := by unfold Statement; decide
theorem reset : Statement .reset := by unfold Statement; decide

end Sys2Proof.Laws.EncodingLegal
end

