-- ==== Sys2Proof/Laws/Port.lean ====
section
/-! SUPPORT. What taking a request from the port does (rule R276). -/

namespace Sys2Proof.Machine

/-- `takeFrom who` takes the oldest request of `who` and keeps every issuer's other requests in order. -/
theorem takeFrom_spec {who : Issuer} {ps qs : List Presented} {r : Request}
    (h : takeFrom who ps = some (r, qs)) :
    ps.filter (fun p => p.issuer = who) = ⟨who, r⟩ :: qs.filter (fun p => p.issuer = who) ∧
      ∀ w, w ≠ who → ps.filter (fun p => p.issuer = w) = qs.filter (fun p => p.issuer = w) := by
  induction ps generalizing qs with
  | nil => simp [takeFrom] at h
  | cons p ps ih =>
    obtain ⟨pi, pr⟩ := p
    unfold takeFrom at h
    split at h
    · rename_i hp
      simp only [Option.some.injEq, Prod.mk.injEq] at h
      obtain ⟨rfl, rfl⟩ := h
      simp only at hp
      subst hp
      exact ⟨by simp, fun w hw => by simp [Ne.symm hw]⟩
    · rename_i hp
      simp only [Option.map_eq_some_iff, Prod.exists, Prod.mk.injEq] at h
      obtain ⟨r', qs', ht, rfl, rfl⟩ := h
      obtain ⟨h1, h2⟩ := ih ht
      simp only at hp
      refine ⟨by simp [hp, h1], fun w hw => ?_⟩
      by_cases hpw : pi = w <;> simp [hpw, h2 w hw]

/-- An issuer that presents something has an oldest request to take. -/
theorem takeFrom_isSome {who : Issuer} {ps : List Presented} (h : ∃ p ∈ ps, p.issuer = who) :
    ∃ x, takeFrom who ps = some x := by
  induction ps with
  | nil => simp at h
  | cons p ps ih =>
    unfold takeFrom
    split
    · exact ⟨_, rfl⟩
    · rename_i hp
      obtain ⟨q, hq, hw⟩ := h
      rcases List.mem_cons.mp hq with rfl | hq
      · exact absurd hw hp
      · obtain ⟨x, hx⟩ := ih ⟨q, hq, hw⟩
        exact ⟨_, by rw [hx]; rfl⟩

/-- The port serves an issuer that presents something. -/
theorem nextIssuer_mem (n : Nat) (p : Presented) (ps : List Presented) :
    ∃ q ∈ p :: ps, q.issuer = nextIssuer n p ps := by
  unfold nextIssuer
  split
  · exact ⟨p, List.mem_cons_self, rfl⟩
  · rename_i a as
    refine ⟨_, ?_, rfl⟩
    have hlt : Config.sched n % (p :: a :: as).length < (p :: a :: as).length :=
      Nat.mod_lt _ (by simp)
    rw [List.getD_eq_getElem?_getD, List.getElem?_eq_getElem hlt, Option.getD_some]
    exact List.getElem_mem hlt

/-- All that `takeRequest` does: nothing at an empty port; otherwise one issuer's oldest request leaves the
port, and nothing else of the state changes but the count of requests taken. -/
theorem takeRequest_spec (s : State) :
    (s.port = [] ∧ takeRequest s = none) ∨
    ∃ who r qs, takeFrom who s.port = some (r, qs) ∧
      takeRequest s = some (r, { s with port := qs, arb := s.arb + 1 }) := by
  cases hs : s.port with
  | nil => exact .inl ⟨rfl, by simp [takeRequest, hs]⟩
  | cons p ps =>
    obtain ⟨⟨r, qs⟩, hx⟩ := takeFrom_isSome (nextIssuer_mem s.arb p ps)
    exact .inr ⟨_, r, qs, hx, by simp only [takeRequest, hs, hx, Option.map_some]⟩

end Sys2Proof.Machine
end

