-- ==== Sys2Proof/Tests/Slice0.lean ====
section
/-! SUPPORT. Tests: refused requests, a decoded word per operation, one or two single-step vectors per operation
(their names and values are those of spec/95_test_vectors.md), and a witness of the hypotheses of each
obligation that has some. -/

open Sys2Proof Sys2Proof.Machine

namespace Sys2Proof.Tests

/-! ### Requests that WellFormed refuses, one per line of rule R87 (V-SYS-6 to V-SYS-13) -/

theorem test_refuse_reserved_bits : (⟨0x0200#16, 0#32⟩ : Request).wellFormed = false := by decide
theorem test_refuse_kind_7 : (⟨0xE000#16, 0#32⟩ : Request).wellFormed = false := by decide
theorem test_refuse_level_of_write : (⟨0x0100#16, 0#32⟩ : Request).wellFormed = false := by decide
theorem test_refuse_level_of_pulse : (⟨0x8100#16, 0#32⟩ : Request).wellFormed = false := by decide
theorem test_refuse_address_2A : (⟨0x202A#16, 0#32⟩ : Request).wellFormed = false := by decide
theorem test_refuse_address_FF : (⟨0x00FF#16, 0#32⟩ : Request).wellFormed = false := by decide
theorem test_refuse_edge_index : (⟨0x4104#16, 0#32⟩ : Request).wellFormed = false := by decide
theorem test_refuse_edge_all_argument : (⟨0x6001#16, 0#32⟩ : Request).wellFormed = false := by decide
theorem test_refuse_pulse_index : (⟨0x8004#16, 0#32⟩ : Request).wellFormed = false := by decide
theorem test_refuse_power_down_argument : (⟨0xA001#16, 0#32⟩ : Request).wellFormed = false := by decide
theorem test_refuse_reset_level : (⟨0xC100#16, 0#32⟩ : Request).wellFormed = false := by decide
theorem test_accept_last_register : (⟨0x2029#16, 0#32⟩ : Request).wellFormed = true := by decide

/-! ### A word of every operation, written out from rules R81, R82, R100 and R102 -/

theorem test_decode_wr_freq : decode ⟨0x0001#16, 0xDEADBEEF#32⟩ = .ok (.wrFreq 1 0xDEADBEEF#32) := by decide
theorem test_decode_wr_duty : decode ⟨0x0006#16, 0xDEADBEEF#32⟩ = .ok (.wrDuty 2 0xDEADBEEF#32) := by decide
theorem test_decode_wr_count : decode ⟨0x000B#16, 0xDEADBEEF#32⟩ = .ok (.wrCount 3 0xDEADBEEF#32) := by decide
theorem test_decode_wr_mode : decode ⟨0x000C#16, 0xDEADBEEF#32⟩ = .ok (.wrMode 0 0xDEADBEEF#32) := by decide
theorem test_decode_wr_real_freq :
    decode ⟨0x0012#16, 0xDEADBEEF#32⟩ = .ok (.wrRealFreq 2 0xDEADBEEF#32) := by decide
theorem test_decode_wr_real_duty :
    decode ⟨0x0015#16, 0xDEADBEEF#32⟩ = .ok (.wrRealDuty 1 0xDEADBEEF#32) := by decide
theorem test_decode_wr_trig_mask :
    decode ⟨0x001B#16, 0xDEADBEEF#32⟩ = .ok (.wrTrigMask 3 0xDEADBEEF#32) := by decide
theorem test_decode_wr_trig_mode :
    decode ⟨0x001D#16, 0xDEADBEEF#32⟩ = .ok (.wrTrigMode 1 0xDEADBEEF#32) := by decide
theorem test_decode_wr_all_mode :
    decode ⟨0x0020#16, 0xDEADBEEF#32⟩ = .ok (.wrAllMode 0xDEADBEEF#32) := by decide
theorem test_decode_wr_start : decode ⟨0x0021#16, 0xDEADBEEF#32⟩ = .ok (.wrStart 0xDEADBEEF#32) := by decide
theorem test_decode_wr_stop : decode ⟨0x0022#16, 0xDEADBEEF#32⟩ = .ok (.wrStop 0xDEADBEEF#32) := by decide
theorem test_decode_wr_enable : decode ⟨0x0023#16, 0xDEADBEEF#32⟩ = .ok (.wrEnable 0xDEADBEEF#32) := by decide
theorem test_decode_wr_confirm :
    decode ⟨0x0024#16, 0xDEADBEEF#32⟩ = .ok (.wrConfirm 0xDEADBEEF#32) := by decide
theorem test_decode_wr_single_shot :
    decode ⟨0x0025#16, 0xDEADBEEF#32⟩ = .ok (.wrSingleShot 0xDEADBEEF#32) := by decide
theorem test_decode_wr_trig_state :
    decode ⟨0x0026#16, 0xDEADBEEF#32⟩ = .ok (.wrTrigState 0xDEADBEEF#32) := by decide
theorem test_decode_wr_run_state :
    decode ⟨0x0027#16, 0xDEADBEEF#32⟩ = .ok (.wrRunState 0xDEADBEEF#32) := by decide
theorem test_decode_wr_exec_state :
    decode ⟨0x0028#16, 0xDEADBEEF#32⟩ = .ok (.wrExecState 0xDEADBEEF#32) := by decide
theorem test_decode_wr_evt_en : decode ⟨0x0029#16, 0xDEADBEEF#32⟩ = .ok (.wrEvtEn 0xDEADBEEF#32) := by decide
theorem test_decode_rd_freq : decode ⟨0x2003#16, 0xDEADBEEF#32⟩ = .ok (.rdFreq 3) := by decide
theorem test_decode_rd_duty : decode ⟨0x2005#16, 0xDEADBEEF#32⟩ = .ok (.rdDuty 1) := by decide
theorem test_decode_rd_count : decode ⟨0x200A#16, 0xDEADBEEF#32⟩ = .ok (.rdCount 2) := by decide
theorem test_decode_rd_mode : decode ⟨0x200F#16, 0xDEADBEEF#32⟩ = .ok (.rdMode 3) := by decide
theorem test_decode_rd_real_freq : decode ⟨0x2011#16, 0xDEADBEEF#32⟩ = .ok (.rdRealFreq 1) := by decide
theorem test_decode_rd_real_duty : decode ⟨0x2017#16, 0xDEADBEEF#32⟩ = .ok (.rdRealDuty 3) := by decide
theorem test_decode_rd_trig_mask : decode ⟨0x201A#16, 0xDEADBEEF#32⟩ = .ok (.rdTrigMask 2) := by decide
theorem test_decode_rd_trig_mode : decode ⟨0x201D#16, 0xDEADBEEF#32⟩ = .ok (.rdTrigMode 1) := by decide
theorem test_decode_rd_all_mode : decode ⟨0x2020#16, 0xDEADBEEF#32⟩ = .ok .rdAllMode := by decide
theorem test_decode_rd_start : decode ⟨0x2021#16, 0xDEADBEEF#32⟩ = .ok .rdStart := by decide
theorem test_decode_rd_stop : decode ⟨0x2022#16, 0xDEADBEEF#32⟩ = .ok .rdStop := by decide
theorem test_decode_rd_enable : decode ⟨0x2023#16, 0xDEADBEEF#32⟩ = .ok .rdEnable := by decide
theorem test_decode_rd_confirm : decode ⟨0x2024#16, 0xDEADBEEF#32⟩ = .ok .rdConfirm := by decide
theorem test_decode_rd_single_shot : decode ⟨0x2025#16, 0xDEADBEEF#32⟩ = .ok .rdSingleShot := by decide
theorem test_decode_rd_trig_state : decode ⟨0x2026#16, 0xDEADBEEF#32⟩ = .ok .rdTrigState := by decide
theorem test_decode_rd_run_state : decode ⟨0x2027#16, 0xDEADBEEF#32⟩ = .ok .rdRunState := by decide
theorem test_decode_rd_exec_state : decode ⟨0x2028#16, 0xDEADBEEF#32⟩ = .ok .rdExecState := by decide
theorem test_decode_rd_evt_en : decode ⟨0x2029#16, 0xDEADBEEF#32⟩ = .ok .rdEvtEn := by decide
theorem test_decode_edge : decode ⟨0x4102#16, 0xDEADBEEF#32⟩ = .ok (.edge 2 true) := by decide
theorem test_decode_edge_all : decode ⟨0x6000#16, 0xDEADBEEF#32⟩ = .ok (.edgeAll false) := by decide
theorem test_decode_pulse : decode ⟨0x8003#16, 0xDEADBEEF#32⟩ = .ok (.pulse 3) := by decide
theorem test_decode_power_down : decode ⟨0xA000#16, 0xDEADBEEF#32⟩ = .ok .powerDown := by decide
theorem test_decode_reset : decode ⟨0xC000#16, 0xDEADBEEF#32⟩ = .ok .reset := by decide

/-! ### Single steps -/

/-- The state that an instruction leaves. -/
def after (i : Instr) (s : State) : State :=
  match exec i s with
  | .next t => t
  | .fault _ => s
  | .refused _ => s

/-- The reset state with the channels of `m` running, as `start` leaves them. -/
def running (m : Mask) : State :=
  { State.reset with
    run := m, execState := m, rem := State.reset.count
    latched := .all ⟨5#3, 50000#16, 25000#16, .count⟩ }

/-- `TMR_PROGRAM(i, 5, 50000, 25000)`, the P(i) of spec/95_test_vectors.md. -/
def program (i : Chan) : Event := .tmrProgram i 5#3 50000#16 25000#16

/-- V-WR-1 -/
theorem test_wr_freq_1000 :
    ((after (.wrFreq 1 0x447A0000#32) State.reset).derived.get 1)
      = ⟨true, 1#3, 32000#16, 16000#16, 0x447A0000#32, 0x42480000#32⟩ := by decide +kernel
/-- V-WR-2 -/
theorem test_wr_freq_half_rejected :
    after (.wrFreq 0 0x3F000000#32) State.reset = answered false 0#32 State.reset := by decide +kernel
/-- V-WR-12, V-DER-15 -/
theorem test_wr_duty_99_9 :
    ((after (.wrDuty 0 0x42C7CCCC#32) State.reset).derived.get 0)
      = ⟨true, 5#3, 50000#16, 49950#16, 0x41200000#32, 0x42C7CCCD#32⟩ := by decide +kernel
/-- V-DER-9: the same request at CLOCK_HZ = 100,000,000 -/
theorem test_wr_freq_other_clock :
    ((after (.wrFreq 0 0x3F800000#32) (State.resetAt 100000000)).derived.get 0)
      = ⟨false, 0#3, 0#16, 0#16, 0#32, 0#32⟩ := by decide +kernel
/-- V-WR-10 -/
theorem test_wr_duty_low_rejected :
    (after (.wrDuty 0 0x3DCCCCCC#32) State.reset).resp = some ⟨false, 0#32⟩ := by decide +kernel
/-- V-WR-14 -/
theorem test_wr_count_zero :
    after (.wrCount 2 0#32) State.reset = answered false 0#32 State.reset := by decide +kernel
/-- V-WR-15 -/
theorem test_wr_count_max :
    (after (.wrCount 2 0xFFFFFFFF#32) State.reset).count = ⟨10#32, 20#32, 0xFFFFFFFF#32, 40#32⟩ := by decide
/-- V-WR-16 -/
theorem test_wr_mode :
    (after (.wrMode 3 1#32) State.reset).mode = ⟨.count, .count, .count, .infinite⟩ := by decide
/-- V-WR-17 -/
theorem test_wr_mode_2 : (after (.wrMode 3 2#32) State.reset).resp = some ⟨false, 0#32⟩ := by decide
/-- V-WR-34 -/
theorem test_wr_real_freq : (after (.wrRealFreq 0 0#32) State.reset).resp = some ⟨false, 0#32⟩ := by decide
/-- rule R213 -/
theorem test_wr_real_duty :
    (after (.wrRealDuty 0 0x42480000#32) State.reset).resp = some ⟨false, 0#32⟩ := by decide
/-- V-WR-18 -/
theorem test_wr_trig_mask :
    (after (.wrTrigMask 1 6#32) State.reset).tmask = ⟨0x1#4, 0x6#4, 0x4#4, 0x8#4⟩ := by decide
/-- V-WR-19 -/
theorem test_wr_trig_mask_wide :
    (after (.wrTrigMask 0 0x10#32) State.reset).resp = some ⟨false, 0#32⟩ := by decide
/-- rules R93, R205: bit 1 is TACT, bit 0 TPOL -/
theorem test_wr_trig_mode :
    ((after (.wrTrigMode 1 2#32) State.reset).tpol.get 1, (after (.wrTrigMode 1 2#32) State.reset).tact.get 1)
      = (false, .startAndStop) := by decide
/-- V-WR-22 -/
theorem test_wr_all_mode :
    ((after (.wrAllMode 7#32) State.reset).aact, (after (.wrAllMode 7#32) State.reset).apol)
      = (.enableAndStop, true) := by decide
/-- P2 line 3 -/
theorem test_wr_all_mode_2 :
    ((after (.wrAllMode 2#32) State.reset).aact, (after (.wrAllMode 2#32) State.reset).apol)
      = (.enable, false) := by decide
/-- V-WR-24 -/
theorem test_wr_start :
    (after (.wrStart 3#32) State.reset).events = [program 0, program 1, .notify 0x28#8] := by decide
/-- V-WR-39 -/
theorem test_wr_start_shared_channel :
    (after (.wrStart 3#32) { State.reset with tmask := ⟨0x3#4, 0x2#4, 0x4#4, 0x8#4⟩ }).events
      = [program 0, program 1, .notify 0x28#8] := by decide
/-- V-WR-27 -/
theorem test_wr_stop :
    (after (.wrStop 1#32) (running 0x3#4)).events = [.tmrHalt 0, .notify 0x28#8] := by decide
/-- V-WR-28 -/
theorem test_wr_stop_nothing :
    ((after (.wrStop 0xF#32) State.reset).events, (after (.wrStop 0xF#32) State.reset).stopLatch)
      = ([], 0xF#4) := by decide
/-- V-WR-29 -/
theorem test_wr_enable : (after (.wrEnable 5#32) State.reset).enable = 0x5#4 := by decide
/-- V-WR-30 -/
theorem test_wr_confirm : (after (.wrConfirm 0xF#32) State.reset).confirm = 0xF#4 := by decide
/-- V-WR-31 -/
theorem test_wr_single_shot : (after (.wrSingleShot 4#32) State.reset).ssd = 0x4#4 := by decide
/-- V-WR-36 -/
theorem test_wr_trig_state : (after (.wrTrigState 0#32) State.reset).resp = some ⟨false, 0#32⟩ := by decide
/-- rule R213 -/
theorem test_wr_run_state : (after (.wrRunState 0#32) (running 0x1#4)).run = 0x1#4 := by decide
/-- V-WR-35 -/
theorem test_wr_exec_state : (after (.wrExecState 0#32) State.reset).resp = some ⟨false, 0#32⟩ := by decide
/-- V-WR-32 -/
theorem test_wr_evt_en : (after (.wrEvtEn 0#32) State.reset).evtEn = false := by decide
/-- V-WR-33 -/
theorem test_wr_evt_en_2 : (after (.wrEvtEn 2#32) State.reset).resp = some ⟨false, 0#32⟩ := by decide
/-- V-RD-1 -/
theorem test_rd_freq : (after (.rdFreq 3) State.reset).resp = some ⟨true, 0x41200000#32⟩ := by decide
/-- V-RD-2 -/
theorem test_rd_duty : (after (.rdDuty 0) State.reset).resp = some ⟨true, 0x42480000#32⟩ := by decide
/-- V-RD-3 -/
theorem test_rd_count : (after (.rdCount 1) State.reset).resp = some ⟨true, 20#32⟩ := by decide
/-- P4 line 8 -/
theorem test_rd_mode :
    (after (.rdMode 2) (after (.wrMode 2 1#32) State.reset)).resp = some ⟨true, 1#32⟩ := by decide
/-- V-RD-5 -/
theorem test_rd_real_freq :
    (after (.rdRealFreq 0) (after (.wrFreq 0 0x47000000#32) State.reset)).resp = some ⟨true, 0x46FFE2A7#32⟩
    := by decide +kernel
/-- V-RD-6 -/
theorem test_rd_real_duty :
    (after (.rdRealDuty 0) (after (.wrFreq 0 0x47000000#32) State.reset)).resp = some ⟨true, 0x42483468#32⟩
    := by decide +kernel
/-- V-RD-7 -/
theorem test_rd_trig_mask : (after (.rdTrigMask 2) State.reset).resp = some ⟨true, 4#32⟩ := by decide
/-- V-RD-8 -/
theorem test_rd_trig_mode :
    (after (.rdTrigMode 1) (after (.wrTrigMode 1 3#32) State.reset)).resp = some ⟨true, 3#32⟩ := by decide
/-- V-RD-9 -/
theorem test_rd_all_mode :
    (after (.rdAllMode) (after (.wrAllMode 7#32) State.reset)).resp = some ⟨true, 7#32⟩ := by decide
/-- V-RD-10 -/
theorem test_rd_start :
    (after (.rdStart) (after (.wrStart 3#32) State.reset)).resp = some ⟨true, 3#32⟩ := by decide
/-- V-RD-11 -/
theorem test_rd_start_again :
    (after (.rdStart) (after .rdStart (after (.wrStart 3#32) State.reset))).resp = some ⟨true, 0#32⟩
    := by decide
/-- V-WR-28, rule R253 -/
theorem test_rd_stop :
    (after (.rdStop) (after (.wrStop 0xF#32) State.reset)).resp = some ⟨true, 0xF#32⟩ := by decide
/-- P2 line 5 -/
theorem test_rd_enable :
    (after (.rdEnable) { State.reset with enable := 0xF#4 }).resp = some ⟨true, 0xF#32⟩ := by decide
/-- V-RD-14 -/
theorem test_rd_confirm : (after (.rdConfirm) State.reset).resp = some ⟨true, 0#32⟩ := by decide
/-- V-RD-15 -/
theorem test_rd_single_shot : (after (.rdSingleShot) State.reset).resp = some ⟨true, 0#32⟩ := by decide
/-- rule R255: a sample leaves the block as it was; its value is free -/
theorem test_rd_trig_state :
    (after .rdTrigState State.reset).startLatch = 0x0#4 ∧ (after .rdTrigState State.reset).draws = 1
    := by decide
/-- V-RD-17 -/
theorem test_rd_run_state :
    (after (.rdRunState) (after (.wrStart 3#32) State.reset)).resp = some ⟨true, 3#32⟩ := by decide
/-- V-RD-18 -/
theorem test_rd_exec_state :
    (after (.rdExecState) (after (.wrStart 3#32) State.reset)).resp = some ⟨true, 3#32⟩ := by decide
/-- V-RD-19 -/
theorem test_rd_evt_en : (after (.rdEvtEn) State.reset).resp = some ⟨true, 1#32⟩ := by decide
/-- V-RT-1 -/
theorem test_edge_start : (after (.edge 0 true) State.reset).events = [program 0, .notify 0x28#8] := by decide
/-- V-RT-8 -/
theorem test_edge_gated_channel :
    (after (.edge 1 true) { State.reset with tmask := .all 0xF#4, confirm := 0x2#4 }).events
      = [program 0, program 2, program 3, .notify 0x28#8] := by decide
/-- V-RT-11 -/
theorem test_edge_all_stop :
    (after (.edgeAll false) { running 0xF#4 with aact := .triggerAllAndStop }).events
      = [.tmrHalt 0, .tmrHalt 1, .tmrHalt 2, .tmrHalt 3, .notify 0x28#8] := by decide
/-- V-RT-14 -/
theorem test_edge_all_enable_and_stop :
    let t := after (.edgeAll false) { running 0x1#4 with aact := .enableAndStop, enable := 0xF#4 }
    (t.enable, t.run)
      = (0x0#4, 0x1#4) := by decide
/-- V-PL-7 -/
theorem test_pulse_last :
    let t := after (.pulse 1) { running 0x2#4 with rem := .all 1#32, ssd := 0x2#4, enable := 0x2#4 }
    (t.events, t.enable, t.run) = ([.tmrHalt 1, .notify 0x28#8], 0x0#4, 0x0#4) := by decide
/-- V-PL-5 -/
theorem test_pulse_wraps :
    (after (.pulse 3) { running 0x8#4 with
      rem := .all 0#32, latched := .all ⟨5#3, 50000#16, 25000#16, .infinite⟩ }).rem.get 3
      = 0xFFFFFFFF#32 := by decide
/-- V-SYS-1 -/
theorem test_power_down : (after .powerDown (running 0x5#4)).events = [.tmrHalt 0, .tmrHalt 2] := by decide
/-- V-SYS-3 -/
theorem test_power_down_keeps_enable :
    (after .powerDown { running 0x2#4 with ssd := 0xF#4, enable := 0xF#4 }).enable = 0xF#4 := by decide
/-- V-SYS-4 -/
theorem test_reset_halts : (after .reset (running 0x2#4)).events = [.tmrHalt 1] := by decide +kernel
/-- V-SYS-5 -/
theorem test_reset_restores : after .reset State.reset = answered true 0#32 State.reset := by decide +kernel
/-- R300 at another clock: at 64 MHz the default frequency gets 64,000,000 / (64 * 10) = 100000 > 65535, so divisor
256 and the count 25000. -/
theorem test_reset_other_clock :
    ((after .reset (State.resetAt 64000000)).derived.get 2)
      = ⟨true, 6#3, 25000#16, 12500#16, 0x41200000#32, 0x42480000#32⟩ := by decide +kernel
/-- V-FIT-10 -/
theorem test_fit_tie_rounds_up :
    fit 32000000 (unitsOf 0x45800000#32) = some ⟨1#3, 7813#16⟩ := by decide +kernel
/-- V-FIT-29 -/
theorem test_fit_infeasible : fit 100000000 (unitsOf 0x3F800000#32) = none := by decide +kernel
/-- V-SYS-14, with the response and the events of the step -/
theorem test_step_ignores_data_of_edge :
    let t := match step (presentOnly ⟨0x4100#16, 0xDEADBEEF#32⟩ State.reset) with
      | .next t => t
      | .fault _ => State.reset
      | .refused _ => State.reset
    (t.resp, t.events) = (some ⟨true, 0#32⟩, [program 0, .notify 0x28#8]) := by decide

/-- The value of a positive normal pattern with the given exponent and fraction. -/
theorem exactVal_normal {b : Word} {q : ℚ} (e m : ℕ)
    (h : b.getLsbD 31 = false ∧ (b.extractLsb' 23 8).toNat = e ∧ (b.extractLsb' 0 23).toNat = m ∧ e ≠ 0)
    (hq : (1 + (m : ℚ) / 2 ^ 23) * (2 : ℚ) ^ ((e : ℤ) - 127) = q) : exactVal b = q := by
  obtain ⟨hs, he, hm, h0⟩ := h
  unfold exactVal
  rw [hs, he, hm]
  simp only [Bool.false_eq_true, if_false, h0, one_mul]
  exact hq

theorem val_3F000001 : exactVal 0x3F000001#32 = 8388609 / 16777216 :=
  exactVal_normal 126 1 (by decide) (by norm_num [zpow_neg])
theorem val_47000000 : exactVal 0x47000000#32 = 32768 :=
  exactVal_normal 142 0 (by decide) (by norm_num [zpow_neg])
theorem val_3F000000 : exactVal 0x3F000000#32 = 1 / 2 :=
  exactVal_normal 126 0 (by decide) (by norm_num [zpow_neg])
theorem val_47000001 : exactVal 0x47000001#32 = 8388609 / 256 :=
  exactVal_normal 142 1 (by decide) (by norm_num [zpow_neg])
theorem val_3DCCCCCD : exactVal 0x3DCCCCCD#32 = 13421773 / 134217728 :=
  exactVal_normal 123 5033165 (by decide) (by norm_num [zpow_neg])
theorem val_42C7CCCC : exactVal 0x42C7CCCC#32 = 3273523 / 32768 :=
  exactVal_normal 133 4705484 (by decide) (by norm_num [zpow_neg])
theorem val_3DCCCCCC : exactVal 0x3DCCCCCC#32 = 3355443 / 33554432 :=
  exactVal_normal 123 5033164 (by decide) (by norm_num [zpow_neg])
theorem val_42C7CCCD : exactVal 0x42C7CCCD#32 = 13094093 / 131072 :=
  exactVal_normal 133 4705485 (by decide) (by norm_num [zpow_neg])
theorem val_41200000 : exactVal 0x41200000#32 = 10 :=
  exactVal_normal 130 2097152 (by decide) (by norm_num [zpow_neg])
theorem val_3F800000 : exactVal 0x3F800000#32 = 1 :=
  exactVal_normal 127 0 (by decide) (by norm_num [zpow_neg])
theorem val_42480000 : exactVal 0x42480000#32 = 50 :=
  exactVal_normal 132 4718592 (by decide) (by norm_num [zpow_neg])
theorem val_42C60000 : exactVal 0x42C60000#32 = 99 :=
  exactVal_normal 133 4587520 (by decide) (by norm_num [zpow_neg])

/-! ### Witnesses: a state and operands that meet all the hypotheses of an obligation, clause by clause at the
boundary values -/

theorem test_hyp_StepRunsTheDecodedRequest :
    takeRequest (presentOnly ⟨0x4100#16, 0#32⟩ State.reset)
      = some (⟨0x4100#16, 0#32⟩, { State.reset with arb := 1 }) ∧
    decode ⟨0x4100#16, 0#32⟩ = .ok (.edge 0 true) := by decide

theorem test_hyp_PresentedWordRunsNext :
    decodeTableWord 16 0x4100 = some (.edge 0 true) ∧
    decodeTableWord 48 0x447A00000001 = some (.wrFreq 1 0x447A0000#32) := by decide

theorem test_hyp_IllegalRequestRespondsAndChangesNothing :
    (∀ h : Header, takeRequest (presentOnly ⟨h, 0#32⟩ State.reset)
      = some (⟨h, 0#32⟩, { State.reset with arb := 1 })) ∧
    rsvOf 0x0200#16 ≠ 0#4 ∧ kindOf 0xE000#16 = 7#3 ∧
    (kindOf 0x0100#16 = 0#3 ∧ lvlOf 0x0100#16 = true) ∧
    (kindOf 0x202A#16 = 1#3 ∧ 0x29 < (argOf 0x202A#16).toNat) ∧
    (kindOf 0x4104#16 = 2#3 ∧ 4 ≤ (argOf 0x4104#16).toNat) ∧ (kindOf 0x6001#16 = 3#3 ∧ argOf 0x6001#16 ≠ 0#8) ∧
    (kindOf 0x8100#16 = 4#3 ∧ lvlOf 0x8100#16 = true) ∧ (kindOf 0x8004#16 = 4#3 ∧ 4 ≤ (argOf 0x8004#16).toNat) ∧
    (kindOf 0xA100#16 = 5#3 ∧ lvlOf 0xA100#16 = true) ∧ (kindOf 0xC001#16 = 6#3 ∧ argOf 0xC001#16 ≠ 0#8) :=
  ⟨fun h => by simp [takeRequest, presentOnly, nextIssuer, takeFrom]; exact ⟨rfl, rfl⟩, by decide⟩

theorem test_hyp_PortKeepsEachIssuersOrder :
    State.reset.port = [] ∧ (presentOnly ⟨0x4100#16, 0#32⟩ State.reset).port ≠ [] := by decide

theorem test_hyp_EveryRequestCompletesWithAResponse :
    (presentOnly ⟨0x4100#16, 0#32⟩ State.reset).port ≠ [] ∧
    ∃ t, step (presentOnly ⟨0x4100#16, 0#32⟩ State.reset) = .next t := ⟨by decide, _, rfl⟩

theorem test_hyp_EncodeOfDecodeIsTheRequest :
    (decode ⟨0x0021#16, 3#32⟩ = .ok (.wrStart 3#32) ∧ kindOf 0x0021#16 = 0#3) ∧
    (decode ⟨0x2021#16, 3#32⟩ = .ok .rdStart ∧ kindOf 0x2021#16 ≠ 0#3) := by decide

theorem test_hyp_DataWordIsIgnoredUnlessWrite : kindOf 0x2021#16 ≠ 0#3 := by decide

theorem test_hyp_WriteFreqResult :
    (FinitePattern 0x3F000001#32 ∧ 1 / 2 < exactVal 0x3F000001#32 ∧ exactVal 0x3F000001#32 ≤ 32768) ∧
    (FinitePattern 0x47000000#32 ∧ 1 / 2 < exactVal 0x47000000#32 ∧ exactVal 0x47000000#32 ≤ 32768) ∧
    ¬ (FinitePattern 0x3F000000#32 ∧ 1 / 2 < exactVal 0x3F000000#32 ∧ exactVal 0x3F000000#32 ≤ 32768) ∧
    ¬ (FinitePattern 0x47000001#32 ∧ 1 / 2 < exactVal 0x47000001#32 ∧ exactVal 0x47000001#32 ≤ 32768) ∧
    ¬ (FinitePattern 0x7F800000#32 ∧ 1 / 2 < exactVal 0x7F800000#32 ∧ exactVal 0x7F800000#32 ≤ 32768) := by
  refine ⟨⟨?_, ?_, ?_⟩, ⟨?_, ?_, ?_⟩, fun h => absurd h.2.1 ?_, fun h => absurd h.2.2 ?_, fun h => h.1 (by decide)⟩
  all_goals first | (unfold FinitePattern; decide) | norm_num [val_3F000001, val_47000000, val_3F000000, val_47000001]

theorem test_hyp_WriteDutyResult :
    (FinitePattern 0x3DCCCCCD#32 ∧ 1 / 10 < exactVal 0x3DCCCCCD#32 ∧ exactVal 0x3DCCCCCD#32 < 999 / 10) ∧
    (FinitePattern 0x42C7CCCC#32 ∧ 1 / 10 < exactVal 0x42C7CCCC#32 ∧ exactVal 0x42C7CCCC#32 < 999 / 10) ∧
    ¬ (FinitePattern 0x3DCCCCCC#32 ∧ 1 / 10 < exactVal 0x3DCCCCCC#32 ∧ exactVal 0x3DCCCCCC#32 < 999 / 10) ∧
    ¬ (FinitePattern 0x42C7CCCD#32 ∧ 1 / 10 < exactVal 0x42C7CCCD#32 ∧ exactVal 0x42C7CCCD#32 < 999 / 10) ∧
    ¬ (FinitePattern 0x7FC00000#32 ∧ 1 / 10 < exactVal 0x7FC00000#32 ∧ exactVal 0x7FC00000#32 < 999 / 10) := by
  refine ⟨⟨?_, ?_, ?_⟩, ⟨?_, ?_, ?_⟩, fun h => absurd h.2.1 ?_, fun h => absurd h.2.2 ?_, fun h => h.1 (by decide)⟩
  all_goals first | (unfold FinitePattern; decide) | norm_num [val_3DCCCCCD, val_42C7CCCC, val_3DCCCCCC, val_42C7CCCD]

theorem test_hyp_WriteCountResult :
    1#32 ≠ 0#32 ∧ 0xFFFFFFFF#32 ≠ 0#32 ∧
    State.reset.derived.get 0 = derive Config.clockHz (State.reset.freq.get 0) (State.reset.duty.get 0) := by
  decide +kernel

/-- The boundary values of the width checks: WriteOneBitRegistersResult (1 bit), WriteTrigMaskResult,
WriteStartResult, WriteStopResult and WriteGateMasksResult (4 bits), WriteTriggerModesResult (2 and 3 bits). -/
theorem test_hyp_width_checks :
    (1#32).toNat ≤ 1 ∧ 1 < (2#32).toNat ∧ (0xF#32).toNat ≤ 0xF ∧ 0xF < (0x10#32).toNat ∧
    (3#32).toNat ≤ 3 ∧ 3 < (4#32).toNat ∧ (7#32).toNat ≤ 7 ∧ 7 < (8#32).toNat := by decide

theorem test_hyp_CommandsActOnEachSelectedChannelOnce :
    (0xF#32).toNat ≤ 0xF ∧ ∃ t u, exec (.wrStart 0xF#32) (running 0x1#4) = .next t ∧
      exec (.wrStop 0xF#32) (running 0x1#4) = .next u := ⟨by decide, _, _, rfl, rfl⟩

theorem test_hyp_RejectedWriteLeavesNoTrace :
    (isWrite (.wrEnable 0x10#32) ∧ ∃ t, exec (.wrEnable 0x10#32) State.reset = .next t) ∧
    (isWrite (.wrEnable 0xF#32) ∧ ∃ t, exec (.wrEnable 0xF#32) State.reset = .next t) :=
  ⟨⟨by unfold isWrite; decide, _, rfl⟩, by unfold isWrite; decide, _, rfl⟩

theorem test_hyp_ReadAfterWriteReturnsTheValue :
    readBack (.wrTrigMode 1 3#32) = some (.rdTrigMode 1, 3#32) ∧
    ∃ t, exec (.wrTrigMode 1 3#32) State.reset = .next t ∧ t.resp = some ⟨true, 0#32⟩ :=
  ⟨rfl, _, rfl, by decide⟩

theorem test_hyp_StartPrimitiveResult :
    (running 0x1#4).run.getLsbD 0 = true ∧
    ({ State.reset with confirm := 0x1#4 }.confirm.getLsbD 0 = true ∧ State.reset.enable.getLsbD 0 = false) ∧
    (State.reset.run.getLsbD 0 = false ∧ State.reset.confirm.getLsbD 0 = false) ∧
    (0x1#4).getLsbD 0 = true := by decide

theorem test_hyp_StopPrimitiveResult :
    State.reset.run.getLsbD 3 = false ∧ (running 0x8#4).run.getLsbD 3 = true := by decide

theorem test_hyp_EdgeResult :
    (true ≠ State.reset.tpol.get 0) ∧
    (false = State.reset.tpol.get 0 ∧ State.reset.tact.get 0 = .startOnly) ∧
    (false = State.reset.tpol.get 3 ∧
      ({ State.reset with tact := .all .startAndStop } : State).tact.get 3 = .startAndStop) := by decide

theorem test_hyp_EdgeAllResult :
    (true ≠ State.reset.apol ∧ State.reset.aact = .triggerAll) ∧ false = State.reset.apol ∧
    ({ State.reset with aact := .triggerAllAndStop } : State).aact = .triggerAllAndStop ∧
    ({ State.reset with aact := .enable } : State).aact = .enable ∧
    ({ State.reset with aact := .enableAndStop } : State).aact = .enableAndStop := by decide

/-- Channel 0 runs in the latched mode Infinite with REM = 1. -/
def infiniteOnePulseLeft : State :=
  { running 0x1#4 with rem := .all 1#32, latched := .all ⟨5#3, 50000#16, 25000#16, .infinite⟩ }

theorem test_hyp_PulseResult :
    ((running 0x1#4).run.getLsbD 0 = true ∧ ((running 0x1#4).latched.get 0).mode = .count ∧
      (running 0x1#4).rem.get 0 ≠ 1#32) ∧
    ({ running 0x1#4 with rem := .all 1#32 } : State).rem.get 0 = 1#32 ∧
    (infiniteOnePulseLeft.run.getLsbD 0 = true ∧ (infiniteOnePulseLeft.latched.get 0).mode = .infinite ∧
      infiniteOnePulseLeft.rem.get 0 = 1#32) ∧
    State.reset.run.getLsbD 0 = false := by decide

theorem test_hyp_IgnoredEventsChangeNothing :
    State.reset.execState = State.reset.run ∧ State.reset.run.getLsbD 0 = false ∧
    State.reset.tact.get 0 = .startOnly ∧ false = State.reset.tpol.get 0 := by decide

theorem test_hyp_EveryStartReloadsTheChannel :
    ∃ t, exec (.edge 0 true) State.reset = .next t ∧ State.reset.run.getLsbD 0 = false ∧
      t.run.getLsbD 0 = true := ⟨_, rfl, by decide, by decide⟩

theorem test_hyp_GatedOffChannelNeverStarts :
    ∃ t, exec (.edge 0 true) { State.reset with confirm := 0xF#4 } = .next t ∧
      State.reset.run.getLsbD 0 = false ∧ (0xF#4).getLsbD 0 = true ∧ State.reset.enable.getLsbD 0 = false :=
  ⟨_, rfl, by decide, by decide, by decide⟩

theorem test_hyp_RunningChannelKeepsItsParameters :
    ∃ t, exec (.wrCount 0 2#32) (running 0x1#4) = .next t ∧ Instr.wrCount 0 2#32 ≠ .reset ∧
      (running 0x1#4).run.getLsbD 0 = true ∧ Instr.wrCount 0 2#32 ≠ .pulse 0 :=
  ⟨_, rfl, by decide, by decide, by decide⟩

theorem test_hyp_OnlyBatchesAndLifecycleTouchExecution :
    (∃ t, exec (.wrEnable 0#32) (running 0x1#4) = .next t) ∧ ¬ Folds (.wrEnable 0#32) ∧
      Instr.wrEnable 0#32 ≠ .powerDown ∧ Instr.wrEnable 0#32 ≠ .reset :=
  ⟨⟨_, rfl⟩, id, by decide, by decide⟩

/-- A STOP command, the opposite "all" edge in TriggerAllAndStop mode, and POWER_DOWN. -/
theorem test_hyp_SingleShotStopClearsEnable :
    let s : State := { running 0x1#4 with ssd := 0x1#4, enable := 0x1#4, aact := .triggerAllAndStop }
    (∀ i ∈ [Instr.wrStop 1#32, .edgeAll false, .powerDown],
      (∃ t, exec i s = .next t) ∧ (∀ v, i ≠ .wrEnable v) ∧ i ≠ .reset) ∧
    ∀ i, ¬ EnableModeEdge i s := by
  refine ⟨fun i hi => ?_, fun i h => by rcases h.2 with h | h <;> exact absurd h (by decide)⟩
  fin_cases hi <;> exact ⟨⟨_, rfl⟩, by simp, by simp⟩

/-- The hypothesis `exec i s = .next t` alone: EventsEndWithAtMostOneNotify, NotifyExactlyWhenExecChanges and
TimerUnitsFollowRun. -/
theorem test_hyp_exec_next :
    ∃ t, exec (.edge 0 true) State.reset = .next t ∧ .notify 0x28#8 ∈ t.events := ⟨_, rfl, by decide⟩

theorem test_hyp_ExecEqualsRunAndSyncLevelsFollow :
    (presentOnly ⟨0x4100#16, 0#32⟩ State.reset).execState = (presentOnly ⟨0x4100#16, 0#32⟩ State.reset).run ∧
    ∃ t, step (presentOnly ⟨0x4100#16, 0#32⟩ State.reset) = .next t := ⟨rfl, _, rfl⟩

theorem test_hyp_CountRunStopsAtExactlyNPulses :
    (running 0x1#4).execState = (running 0x1#4).run ∧ (running 0x1#4).run.getLsbD 0 = true ∧
    ((running 0x1#4).latched.get 0).mode = .count ∧ ((running 0x1#4).rem.get 0).toNat = 10 ∧ 1 ≤ 10 ∧
    ({ running 0x1#4 with rem := .all 1#32 }.rem.get 0).toNat = 1 := by decide

theorem test_hyp_InfiniteRunNeverStopsItself :
    (running 0x1#4).execState = (running 0x1#4).run ∧ (running 0x1#4).run.getLsbD 0 = true ∧
    (({ running 0x1#4 with latched := .all ⟨5#3, 50000#16, 25000#16, .infinite⟩ } : State).latched.get 0).mode
      = .infinite := by decide

/-- With channel 0 alone, and with channel 3 stopped by the same command. -/
theorem test_hyp_PulseAndStopNeverDoubleApply :
    ∀ m ∈ [0x1#4, 0x9#4],
    let s : State := { running m with rem := .all 1#32 }
    s.execState = s.run ∧ s.run.getLsbD 0 = true ∧ (s.latched.get 0).mode = .count ∧ s.rem.get 0 = 1#32 ∧
    (9#32).toNat ≤ 0xF ∧ (unionOf (selectedMasks (BitVec.ofNat 4 (9#32).toNat) s)).getLsbD 0 = true ∧
    ∃ p ps q qp, exec (.pulse 0) s = .next p ∧ exec (.wrStop 9#32) p = .next ps ∧
      exec (.wrStop 9#32) s = .next q ∧ exec (.pulse 0) q = .next qp := by
  intro m hm
  fin_cases hm <;> exact ⟨by decide, by decide, by decide, by decide, by decide, by decide,
    _, _, _, _, rfl, rfl, rfl, rfl⟩

theorem test_hyp_EnableEdgeThenDiscreteStart :
    let s : State := { State.reset with aact := .enable, confirm := 0xF#4 }
    s.execState = s.run ∧ s.aact = .enable ∧ true ≠ s.apol ∧ true ≠ s.tpol.get 0 ∧
    ∃ t u, exec (.edgeAll true) s = .next t ∧ exec (.edge 0 true) t = .next u :=
  ⟨by decide, by decide, by decide, by decide, _, _, rfl, rfl⟩

theorem test_hyp_TriggerAllBatchNotifiesOnce :
    let s : State := running 0x4#4
    s.execState = s.run ∧ s.aact = .triggerAll ∧ true ≠ s.apol ∧ s.run = 1#4 <<< (2 : Chan).val ∧
    (∀ i : Chan, i ≠ 2 → s.startAllowed i = true) ∧ s.evtEn = true ∧ ∃ t, exec (.edgeAll true) s = .next t :=
  ⟨by decide, by decide, by decide, by decide, by decide, by decide, _, rfl⟩

/-- FitIsTheFirstDivisorThatFits and FitFailsOnlyTooLowOrTooHigh: a feasible frequency (V-FIT-1), one that is too
low (V-FIT-29) and one that is too high (V-FIT-31). -/
theorem test_hyp_fit :
    0 < 32000000 ∧ FinitePattern 0x41200000#32 ∧ 0 < exactVal 0x41200000#32 ∧
    fit 32000000 (unitsOf 0x41200000#32) = some ⟨5#3, 50000#16⟩ ∧
    FinitePattern 0x3F800000#32 ∧ 0 < exactVal 0x3F800000#32 ∧ fit 100000000 (unitsOf 0x3F800000#32) = none ∧
    FinitePattern 0x47000000#32 ∧ 0 < exactVal 0x47000000#32 ∧ fit 10000 (unitsOf 0x47000000#32) = none := by
  refine ⟨?_, ?_, ?_, by decide +kernel, ?_, ?_, by decide +kernel, ?_, ?_, by decide +kernel⟩
  all_goals first | (unfold FinitePattern; decide) | norm_num [val_47000000, val_41200000, val_3F800000]

/-- DerivationFollowsExactArithmetic: infeasible (V-DER-9), degenerate low (V-DER-7), degenerate high (V-DER-8)
and valid (V-DER-1). -/
theorem test_hyp_DerivationFollowsExactArithmetic :
    (FinitePattern 0x42480000#32 ∧ 0 < exactVal 0x42480000#32) ∧
    fit 100000000 (unitsOf 0x3F800000#32) = none ∧
    (fit 1000000 (unitsOf 0x47000000#32) = some ⟨1#3, 31#16⟩ ∧ exactDuty (exactVal 0x3F800000#32) 31 = 0 ∧
      (31 : ℤ) ≤ exactDuty (exactVal 0x42C60000#32) 31) ∧
    (fit 32000000 (unitsOf 0x41200000#32) = some ⟨5#3, 50000#16⟩ ∧
      exactDuty (exactVal 0x42480000#32) 50000 = 25000) := by
  refine ⟨⟨?_, ?_⟩, by decide +kernel, ⟨by decide +kernel, ?_, ?_⟩, by decide +kernel, ?_⟩
  all_goals first | (unfold FinitePattern; decide) | norm_num [exactDuty, exactRound, val_3F800000,
    val_42480000, val_42C60000]

/-- LegalFrequencyAlwaysFits, LegalConfigurationIsNeverDegenerate, DivisorBandsAtThisClock and
RealValuesAreNearestBinary32, at the ends of the legal ranges and on both sides of the first band edge. -/
theorem test_hyp_legal_configurations :
    legalFreq 0x3F000001#32 = true ∧ legalFreq 0x47000000#32 = true ∧ legalDuty 0x3DCCCCCD#32 = true ∧
    legalDuty 0x42C7CCCC#32 = true ∧ legalFreq 0x43F4247A#32 = true ∧ legalFreq 0x43F4247B#32 = true := by
  decide +kernel

/-- Inside the range, in its top binade, and at the largest finite pattern. -/
theorem test_hyp_RealValuesAreNearestBinary32 :
    (0 < 3 ∧ ((1 : ℕ) : ℚ) / (3 : ℕ) < (2 - 1 / 2 ^ 24) * 2 ^ 127) ∧
    (0 < 1 ∧ ((2 ^ 127 : ℕ) : ℚ) / (1 : ℕ) < (2 - 1 / 2 ^ 24) * 2 ^ 127) ∧
    (0 < 1 ∧ ((2 ^ 128 - 2 ^ 103 - 1 : ℕ) : ℚ) / (1 : ℕ) < (2 - 1 / 2 ^ 24) * 2 ^ 127) := by norm_num

/-- The last value below the bound is the largest finite pattern; at the bound infinity begins (rule R131). -/
theorem test_f32_top : f32 (2 ^ 128 - 2 ^ 103 - 1) 1 = 0x7F7FFFFF#32 ∧ f32 (2 ^ 128 - 2 ^ 103) 1 = 0x7F800000#32 := by
  decide +kernel

theorem test_hyp_ResetIsWellState : 0 < 1 ∧ 0 < 32000000 := by decide

/-- StepKeepsWellState and StepKeepsRunningChannelsAudible: a well state with a running channel and a request
at the port. -/
theorem test_hyp_StepKeepsWellState :
    WellState (presentOnly ⟨0x8000#16, 0#32⟩ (running 0x1#4)) ∧
    (presentOnly ⟨0x8000#16, 0#32⟩ (running 0x1#4)).clockHz = 32000000 ∧
    RunsUsablePulses (presentOnly ⟨0x8000#16, 0#32⟩ (running 0x1#4)) ∧
    ∃ t, step (presentOnly ⟨0x8000#16, 0#32⟩ (running 0x1#4)) = .next t :=
  ⟨⟨by decide, rfl, by decide +kernel, by decide +kernel, by decide, by decide +kernel, by decide⟩, rfl, by
    unfold RunsUsablePulses UsablePulse; decide, _, rfl⟩

end Sys2Proof.Tests
end

section
/-! PROOFS of the family 00_scope. A step runs the decoded request (O1). What a request can do to the channels is
said once, by `ChannelChange` and `step_changes`; the two invariants (O58, O60) are proved change by change and
carried to every step by `step_keeps`. At 32 MHz `derive_legal` gives the usable pulse. -/

namespace Sys2Proof.Machine

/-! ### A step is its decoded request (rules R9, R80, R276) -/

/-- Taking a request changes only the port and the count of requests taken. -/
theorem takeRequest_state {s t : State} {r : Request} (h : takeRequest s = some (r, t)) :
    t = { s with port := t.port, arb := s.arb + 1 } := by
  rcases takeRequest_spec s with ⟨_, hnone⟩ | ⟨_, r', qs, _, hsome⟩
  · rw [hnone] at h; cases h
  · rw [hsome] at h; cases h; rfl

theorem step_of_takeRequest_none {s : State} (h : takeRequest s = none) : step s = .next s := by
  simp only [step, h]

theorem step_of_decode_ok {s t : State} {r : Request} {i : Instr} (h : takeRequest s = some (r, t))
    (hd : decode r = .ok i) : step s = exec i t := by
  simp only [step, h, hd]

theorem step_of_decode_error {s t : State} {r : Request} {e : Illegal} (h : takeRequest s = some (r, t))
    (hd : decode r = .error e) : step s = .next (answered false 0#32 t) := by
  simp only [step, h, hd]
  rfl

/-- Settles O1: `step` unfolds to the instruction's meaning, and the port's own law gives the frame. -/
theorem stepRunsTheDecodedRequest : Obligations.StepRunsTheDecodedRequest :=
  fun _ _ _ _ htake hdecode => ⟨step_of_decode_ok htake hdecode, takeRequest_state htake⟩

/-! ### What the invariants read -/

/-- `s` with every field that neither `WellState` nor `RunsUsablePulses` reads put to its reset value. Two states
with the same `channels` satisfy the same invariants. -/
def State.channels (s : State) : State :=
  { State.reset with
    clockHz := s.clockHz
    freq := s.freq
    duty := s.duty
    count := s.count
    derived := s.derived
    run := s.run
    execState := s.execState
    rem := s.rem
    latched := s.latched }

theorem wellState_channels {s : State} : WellState s.channels ↔ WellState s :=
  ⟨fun h => { h with }, fun h => { h with }⟩

theorem WellState.of_channels_eq {s t : State} (hs : WellState s) (h : t.channels = s.channels) : WellState t :=
  wellState_channels.1 (h ▸ wellState_channels.2 hs)

theorem clockHz_of_channels_eq {s t : State} (h : t.channels = s.channels) : t.clockHz = s.clockHz := by
  have hclock : t.channels.clockHz = s.channels.clockHz := by rw [h]
  exact hclock

theorem RunsUsablePulses.of_channels_eq {s t : State} (hs : RunsUsablePulses s) (h : t.channels = s.channels) :
    RunsUsablePulses t := by
  have hrun : t.channels.run = s.channels.run := by rw [h]
  have hlatched : t.channels.latched = s.channels.latched := by rw [h]
  exact fun i hi => hlatched ▸ hs i (hrun ▸ hi)

/-! ### Everything a request can do to the channels -/

/-- The ways a request can change what the invariants read, one per group of requests. The order in which a batch
visits its channels shows only in the events, so it is left empty here. -/
inductive ChannelChange (s : State) : State → Prop
  /-- reads, rejected writes, and writes to registers that the invariants do not read -/
  | kept : ChannelChange s s
  /-- an accepted `wr FREQ` (R200) -/
  | freq (i : Chan) (v : Word) (legal : legalFreq v = true) :
      ChannelChange s (updateDerived s.clockHz i { s with freq := s.freq.set i v })
  /-- an accepted `wr DUTY` (R201) -/
  | duty (i : Chan) (v : Word) (legal : legalDuty v = true) :
      ChannelChange s (updateDerived s.clockHz i { s with duty := s.duty.set i v })
  /-- an accepted `wr COUNT` (R202) -/
  | count (i : Chan) (v : Word) (nonzero : v ≠ 0#32) :
      ChannelChange s (updateDerived s.clockHz i { s with count := s.count.set i v })
  /-- a start command or an edge that starts channels (R171, R175, R207) -/
  | starts (g : Mask) : ChannelChange s (afterStarts g [] s)
  /-- a stop command or an edge that stops channels (R171, R175, R208) -/
  | stops (g : Mask) : ChannelChange s (afterStops g [] s)
  /-- an edge or a pulse boundary without effect on RUN and REM (R161, R171, R176) -/
  | folds : ChannelChange s (afterFoldOnly s)
  /-- a pulse boundary that leaves its channel running (R160, R163) -/
  | pulse (i : Chan) (left : (s.latched.get i).mode = .count → s.rem.get i - 1#32 ≠ 0#32) :
      ChannelChange s (afterFoldOnly { s with rem := s.rem.set i (s.rem.get i - 1#32) })
  /-- the pulse boundary that ends a Count channel (R160, R162) -/
  | lastPulse (i : Chan) :
      ChannelChange s (afterStops (1#4 <<< i.val) [i] { s with rem := s.rem.set i (s.rem.get i - 1#32) })
  /-- `power_down` (R290) -/
  | powerDown : ChannelChange s { s with run := 0x0#4, execState := 0x0#4 }
  /-- `reset` (R300) -/
  | reset : ChannelChange s (deriveAll s.clockHz (loadDefaults s))

/-- `t` is what one of the changes makes of `s`, in the fields that the invariants read. -/
def ChangesTo (s t : State) : Prop := ∃ u, ChannelChange s u ∧ t.channels = u.channels

section
variable {s t : State}

theorem serveRead_changes {value : State → Word} (h : serveRead s value = .next t) : ChangesTo s t := by
  cases h
  exact ⟨s, .kept, rfl⟩

/-- A write changes the channels as its accepted effect does, or, rejected, not at all. -/
theorem serveWrite_changes {legal : Bool} {f : State → State}
    (accepted : legal = true → ∃ u, ChannelChange s u ∧ (f s.openRequest).channels = u.channels)
    (h : serveWrite legal s f = .next t) : ChangesTo s t := by
  rw [serveWrite_eq] at h
  cases hl : legal with
  | false => subst hl; cases h; exact ⟨s, .kept, rfl⟩
  | true =>
    obtain ⟨u, hchange, hu⟩ := accepted hl
    subst hl; cases h
    exact ⟨u, hchange, hu⟩

theorem fold_channels (old : Mask) (u : State) : (fold old u).channels = (afterFoldOnly u).channels := by
  rw [fold_eq]; rfl

/-- After a batch request the channels are what its body left, with EXEC folded to RUN (rule R150). -/
theorem serveBatch_channels {f : State → State} (h : serveBatch s f = .next t) :
    t.channels = (afterFoldOnly (f s.openRequest)).channels := by
  cases h
  exact fold_channels s.execState _

theorem execEdge_changes {k : Src} {lvl : Bool} (h : execEdge k lvl s = .next t) : ChangesTo s t := by
  have hchannels := serveBatch_channels h
  split at hchannels
  · rw [batchStart_eq] at hchannels
    exact ⟨_, .starts _, hchannels⟩
  · split at hchannels
    · rw [batchStop_eq] at hchannels
      exact ⟨_, .stops _, hchannels⟩
    · exact ⟨_, .folds, hchannels⟩

theorem execEdgeAll_changes {lvl : Bool} (h : execEdgeAll lvl s = .next t) : ChangesTo s t := by
  have hchannels := serveBatch_channels h
  dsimp only at hchannels
  have hstart : t.channels = (afterFoldOnly (batchStart 0xF#4 s.openRequest)).channels → ChangesTo s t := by
    rw [batchStart_eq]
    exact fun hc => ⟨_, .starts _, hc⟩
  have hstop : t.channels = (afterFoldOnly (batchStop 0xF#4 s.openRequest)).channels → ChangesTo s t := by
    rw [batchStop_eq]
    exact fun hc => ⟨_, .stops _, hc⟩
  cases ha : s.openRequest.aact <;> simp only [ha] at hchannels <;> split at hchannels
  case triggerAll.isTrue | triggerAllAndStop.isTrue => exact hstart hchannels
  case triggerAllAndStop.isFalse => exact hstop hchannels
  all_goals exact ⟨_, .folds, hchannels⟩

theorem execPulse_changes {i : Chan} (h : execPulse i s = .next t) : ChangesTo s t := by
  have hchannels := serveBatch_channels h
  dsimp only at hchannels
  split at hchannels
  · rename_i hrun
    split at hchannels
    · rw [stop_eq, if_pos hrun] at hchannels
      exact ⟨_, .lastPulse i, hchannels⟩
    · rename_i hleft
      rw [Quad.get_set_same] at hleft
      exact ⟨_, .pulse i fun hmode hzero => hleft ⟨hmode, hzero⟩, hchannels⟩
  · exact ⟨_, .folds, hchannels⟩

theorem execWrStart_changes {v : Word} (h : execWrStart v s = .next t) : ChangesTo s t :=
  serveWrite_changes (fun _ => ⟨_, .starts _, by rw [fold_channels, cmdStart_eq]; rfl⟩) h

theorem execWrStop_changes {v : Word} (h : execWrStop v s = .next t) : ChangesTo s t :=
  serveWrite_changes (fun _ => ⟨_, .stops _, by rw [fold_channels, cmdStop_eq]; rfl⟩) h

theorem execPowerDown_changes (h : execPowerDown s = .next t) : ChangesTo s t := by
  cases h
  exact ⟨_, .powerDown, by dsimp only; rw [haltRunning_eq]; rfl⟩

theorem execReset_changes (h : execReset s = .next t) : ChangesTo s t := by
  cases h
  exact ⟨_, .reset, by dsimp only; rw [haltRunning_eq, deriveAll_eq, deriveAll_eq]; rfl⟩

/-- Every instruction changes the channels in one of the listed ways. -/
theorem exec_changes {i : Instr} (h : exec i s = .next t) : ChangesTo s t := by
  cases i with dsimp only [exec] at h
  | wrFreq c v => exact serveWrite_changes (fun legal => ⟨_, .freq c v legal, rfl⟩) h
  | wrDuty c v => exact serveWrite_changes (fun legal => ⟨_, .duty c v legal, rfl⟩) h
  | wrCount c v => exact serveWrite_changes (fun nonzero => ⟨_, .count c v (bne_iff_ne.1 nonzero), rfl⟩) h
  | wrStart v => exact execWrStart_changes h
  | wrStop v => exact execWrStop_changes h
  | wrMode | wrTrigMask | wrTrigMode | wrAllMode | wrEnable | wrConfirm | wrSingleShot | wrEvtEn
  | wrRealFreq | wrRealDuty | wrTrigState | wrRunState | wrExecState =>
    exact serveWrite_changes (fun _ => ⟨s, .kept, rfl⟩) h
  | rdStart | rdStop | rdTrigState => cases h; exact ⟨s, .kept, rfl⟩
  | rdFreq | rdDuty | rdCount | rdMode | rdRealFreq | rdRealDuty | rdTrigMask | rdTrigMode | rdAllMode
  | rdEnable | rdConfirm | rdSingleShot | rdRunState | rdExecState | rdEvtEn => exact serveRead_changes h
  | edge k lvl => exact execEdge_changes h
  | edgeAll lvl => exact execEdgeAll_changes h
  | pulse c => exact execPulse_changes h
  | powerDown => exact execPowerDown_changes h
  | reset => exact execReset_changes h

/-- A step changes nothing that the invariants read when it takes no request or an illegal one, and otherwise
what the instruction changes (rules R87, R276). -/
theorem step_changes (h : step s = .next t) : ∃ u, u.channels = s.channels ∧ ChangesTo u t := by
  cases htake : takeRequest s with
  | none =>
    rw [step_of_takeRequest_none htake] at h
    cases h
    exact ⟨s, rfl, s, .kept, rfl⟩
  | some taken =>
    obtain ⟨r, u⟩ := taken
    have hu : u.channels = s.channels := by rw [takeRequest_state htake]; rfl
    cases hdecode : decode r with
    | error e =>
      rw [step_of_decode_error htake hdecode] at h
      cases h
      exact ⟨u, hu, u, .kept, rfl⟩
    | ok i =>
      rw [step_of_decode_ok htake hdecode] at h
      exact ⟨u, hu, exec_changes h⟩

/-- A property that reads only the channels holds after a step if every listed change keeps it. -/
theorem step_keeps {P : State → Prop} (congr : ∀ {s t : State}, P s → t.channels = s.channels → P t)
    (change : ∀ {s u : State}, P s → ChannelChange s u → P u) (hs : P s) (h : step s = .next t) : P t := by
  obtain ⟨u, hu, v, hchange, ht⟩ := step_changes h
  exact congr (change (congr hs hu) hchange) ht

end

/-! ### Every change keeps the block well (rules R21 to R26, R41, R130, R162) -/

section
variable {s u : State}

theorem ChannelChange.clockHz_eq (h : ChannelChange s u) : u.clockHz = s.clockHz := by
  cases h <;> rfl

theorem forall_get_set {α : Type} {P : α → Prop} {q : Quad α} {i : Fin 4} {v : α} (hq : ∀ j, P (q.get j))
    (hv : P v) (j : Fin 4) : P ((q.set i v).get j) := by
  rw [Quad.get_set]
  split
  · exact hv
  · exact hq j

/-- `update_derived(i)` makes the derived values current where the other channels' are. -/
theorem updateDerived_current {i : Chan}
    (others : ∀ j, j ≠ i → s.derived.get j = derive s.clockHz (s.freq.get j) (s.duty.get j)) (j : Chan) :
    (updateDerived s.clockHz i s).derived.get j = derive s.clockHz (s.freq.get j) (s.duty.get j) := by
  rw [updateDerived_derived, Quad.get_set]
  split
  · rename_i hj; rw [hj]
  · rename_i hj; exact others j hj

theorem WellState.wrFreq (hs : WellState s) {i : Chan} {v : Word} (legal : legalFreq v = true) :
    WellState (updateDerived s.clockHz i { s with freq := s.freq.set i v }) :=
  { hs with
    freqLegal := forall_get_set (P := (legalFreq · = true)) hs.freqLegal legal
    derivedCurrent := updateDerived_current (s := { s with freq := s.freq.set i v }) fun j hj => by
      rw [Quad.get_set_ne _ _ hj]; exact hs.derivedCurrent j }

theorem WellState.wrDuty (hs : WellState s) {i : Chan} {v : Word} (legal : legalDuty v = true) :
    WellState (updateDerived s.clockHz i { s with duty := s.duty.set i v }) :=
  { hs with
    dutyLegal := forall_get_set (P := (legalDuty · = true)) hs.dutyLegal legal
    derivedCurrent := updateDerived_current (s := { s with duty := s.duty.set i v }) fun j hj => by
      rw [Quad.get_set_ne _ _ hj]; exact hs.derivedCurrent j }

theorem WellState.wrCount (hs : WellState s) {i : Chan} {v : Word} (nonzero : v ≠ 0#32) :
    WellState (updateDerived s.clockHz i { s with count := s.count.set i v }) :=
  { hs with
    countNonzero := forall_get_set (P := (· ≠ 0#32)) hs.countNonzero nonzero
    derivedCurrent := updateDerived_current (s := { s with count := s.count.set i v }) fun j _ =>
      hs.derivedCurrent j }

theorem WellState.afterStarts (hs : WellState s) (g : Mask) (visits : List Chan) :
    WellState (afterStarts g visits s) :=
  { hs with
    execIsRun := rfl
    pulsesLeft := fun i hrun hmode => by
      simp only [Machine.afterStarts, getLsbD_mask_or, pick_get] at hrun hmode ⊢
      cases hg : g.getLsbD i.val with
      | true => exact hs.countNonzero i
      | false =>
        simp only [hg, Bool.or_false] at hrun hmode ⊢
        exact hs.pulsesLeft i hrun hmode }

/-- A channel that runs after a batch of stops ran before it and is none of the stopped ones. -/
theorem running_of_afterStops {g : Mask} {visits : List Chan} {i : Chan}
    (h : (afterStops g visits s).run.getLsbD i.val = true) :
    s.run.getLsbD i.val = true ∧ g.getLsbD i.val = false := by
  simpa [afterStops] using h

theorem WellState.afterStops (hs : WellState s) (g : Mask) (visits : List Chan) :
    WellState (afterStops g visits s) :=
  { hs with
    execIsRun := rfl
    pulsesLeft := fun i hrun => hs.pulsesLeft i (running_of_afterStops hrun).1 }

theorem WellState.afterFoldOnly (hs : WellState s) : WellState (afterFoldOnly s) :=
  { hs with execIsRun := rfl }

/-- REM of a channel may take any value that does not leave a running Count channel without pulses. -/
theorem WellState.setRem (hs : WellState s) {i : Chan} {r : Word}
    (left : s.run.getLsbD i.val = true → (s.latched.get i).mode = .count → r ≠ 0#32) :
    WellState { s with rem := s.rem.set i r } :=
  { hs with
    pulsesLeft := fun j hrun hmode => by
      rw [Quad.get_set]
      split
      · rename_i hj; subst hj; exact left hrun hmode
      · exact hs.pulsesLeft j hrun hmode }

/-- The channel that ends with its last pulse is stopped, so nothing is asked of its REM. -/
theorem WellState.lastPulse (hs : WellState s) (i : Chan) (r : Word) :
    WellState (Machine.afterStops (1#4 <<< i.val) [i] { s with rem := s.rem.set i r }) :=
  (hs.afterStops (1#4 <<< i.val) [i]).setRem fun hrun => by
    have hi := (running_of_afterStops hrun).2
    rw [getLsbD_bit, decide_eq_true rfl] at hi
    cases hi

theorem WellState.powerDown (hs : WellState s) : WellState { s with run := 0x0#4, execState := 0x0#4 } :=
  { hs with
    execIsRun := rfl
    pulsesLeft := fun i hrun => absurd hrun (by rw [getLsbD_mask_zero]; decide) }

theorem WellState.reset (hs : WellState s) : WellState (deriveAll s.clockHz (loadDefaults s)) := by
  rw [deriveAll_eq]
  exact
    { clockPositive := hs.clockPositive
      execIsRun := rfl
      freqLegal := fun i => by rw [loadDefaults, Quad.get_all]; decide
      dutyLegal := fun i => by rw [loadDefaults, Quad.get_all]; decide
      countNonzero := by dsimp only [loadDefaults]; decide
      derivedCurrent := Quad.get_ofFn _
      pulsesLeft := fun i hrun => absurd hrun (by rw [loadDefaults, getLsbD_mask_zero]; decide) }

theorem ChannelChange.wellState (hs : WellState s) (h : ChannelChange s u) : WellState u := by
  cases h with
  | kept => exact hs
  | freq i v legal => exact hs.wrFreq legal
  | duty i v legal => exact hs.wrDuty legal
  | count i v nonzero => exact hs.wrCount nonzero
  | starts g => exact hs.afterStarts g []
  | stops g => exact hs.afterStops g []
  | folds => exact hs.afterFoldOnly
  | pulse i left => exact (hs.setRem fun _ => left).afterFoldOnly
  | lastPulse i => exact hs.lastPulse i _
  | powerDown => exact hs.powerDown
  | reset => exact hs.reset

/-- Settles O58: every change a request can make keeps the clock and the block well. -/
theorem stepKeepsWellState : Obligations.StepKeepsWellState := fun s _ hs hstep =>
  step_keeps (P := fun u => u.clockHz = s.clockHz ∧ WellState u)
    (fun ⟨hclock, hwell⟩ h => ⟨(clockHz_of_channels_eq h).trans hclock, hwell.of_channels_eq h⟩)
    (fun ⟨hclock, hwell⟩ h => ⟨h.clockHz_eq.trans hclock, h.wellState hwell⟩) ⟨rfl, hs⟩ hstep

end

/-! ### The count of a legal frequency at 32 MHz -/

theorem unitsPerOne_pos : 0 < unitsPerOne := by unfold unitsPerOne; positivity

theorem legalFreq_units {f : Word} (h : legalFreq f = true) :
    unitsPerOne < 2 * unitsOf f ∧ unitsOf f ≤ 32768 * unitsPerOne := by
  simp only [legalFreq, Bool.and_eq_true, decide_eq_true_eq] at h
  obtain ⟨⟨_, low⟩, high⟩ := h
  exact ⟨low, high⟩

theorem legalDuty_units {d : Word} (h : legalDuty d = true) :
    unitsPerOne < 10 * unitsOf d ∧ 10 * unitsOf d < 999 * unitsPerOne := by
  simp only [legalDuty, Bool.and_eq_true, decide_eq_true_eq] at h
  obtain ⟨⟨_, low⟩, high⟩ := h
  exact ⟨low, high⟩

theorem le_roundHalfUp_iff {a b n : Nat} (hb : 0 < b) : n ≤ roundHalfUp a b ↔ n * (2 * b) ≤ 2 * a + b :=
  Nat.le_div_iff_mul_le (by omega)

theorem roundHalfUp_lt_iff {a b n : Nat} (hb : 0 < b) : roundHalfUp a b < n ↔ 2 * a + b < n * (2 * b) :=
  Nat.div_lt_iff_lt_mul (by omega)

/-- At divisor 1 the count is at least 977, by the upper bound of the frequency. -/
theorem le_countAt_one {u : Nat} (low : unitsPerOne < 2 * u) (high : u ≤ 32768 * unitsPerOne) :
    977 ≤ countAt 32000000 u (nthDivisor 0) := by
  have hd : nthDivisor 0 = 1 := rfl
  rw [countAt, hd, le_roundHalfUp_iff (by omega)]
  omega

/-- At divisor 1024 the count fits, by the lower bound of the frequency. -/
theorem countAt_last_le {u : Nat} (low : unitsPerOne < 2 * u) :
    countAt 32000000 u (nthDivisor 6) ≤ 65535 := by
  have hd : nthDivisor 6 = 1024 := rfl
  rw [countAt, hd, ← Nat.lt_succ_iff, roundHalfUp_lt_iff (by omega)]
  omega

/-- Past a divisor whose count is too large the next one, at most 8 times as large, still counts to 977. -/
theorem le_countAt_of_previous {u d e : Nat} (hu : 0 < u) (hd : 0 < d) (he : 0 < e) (hed : e ≤ 8 * d)
    (large : 65535 < countAt 32000000 u d) : 977 ≤ countAt 32000000 u e := by
  have hmul : e * u ≤ 8 * (d * u) := by
    calc e * u ≤ 8 * d * u := Nat.mul_le_mul_right u hed
      _ = 8 * (d * u) := Nat.mul_assoc 8 d u
  rw [countAt, ← Nat.succ_le_iff, le_roundHalfUp_iff (Nat.mul_pos hd hu)] at large
  rw [countAt, le_roundHalfUp_iff (Nat.mul_pos he hu)]
  omega

theorem nthDivisor_pos (k : Fin 7) : 0 < nthDivisor k := by revert k; decide

theorem nthDivisor_succ_le (k : Fin 6) : nthDivisor k.succ ≤ 8 * nthDivisor k.castSucc := by revert k; decide

/-- The search never meets a count below 977. -/
theorem le_countAt_of_search {u : Nat} (low : unitsPerOne < 2 * u) (high : u ≤ 32768 * unitsPerOne) (k : Fin 7)
    (search : ∀ j < k, ¬ DivisorFits 32000000 u j) : 977 ≤ countAt 32000000 u (nthDivisor k) := by
  induction k using Fin.induction with
  | zero => exact le_countAt_one low high
  | succ k ih =>
    have previous := ih fun j hj => search j (hj.trans k.castSucc_lt_succ)
    have unfit := search k.castSucc k.castSucc_lt_succ
    refine le_countAt_of_previous (by omega) (nthDivisor_pos _) (nthDivisor_pos _) (nthDivisor_succ_le k) ?_
    unfold DivisorFits at unfit
    omega

/-- At 32 MHz every legal frequency has a fit, on a clocked prescaler and with a count of at least 977. -/
theorem fit_legal {f : Word} (hf : legalFreq f = true) :
    ∃ r, fit 32000000 (unitsOf f) = some r ∧ r.psc ≠ 0#3 ∧ 977 ≤ r.ct.toNat := by
  obtain ⟨low, high⟩ := legalFreq_units hf
  cases hfit : fit 32000000 (unitsOf f) with
  | none =>
    have unfit := fit_eq_none_iff.1 hfit
    have hcount := le_countAt_of_search low high 6 fun j _ => unfit j
    exact absurd ⟨by omega, countAt_last_le low⟩ (unfit 6)
  | some r =>
    obtain ⟨k, ⟨_, hmax⟩, search, rfl⟩ := fit_eq_some_iff.1 hfit
    have hcount := le_countAt_of_search low high k search
    have hpsc : ∀ k : Fin 7, BitVec.ofNat 3 (k.val + 1) ≠ 0#3 := by decide
    refine ⟨_, rfl, hpsc k, ?_⟩
    rw [BitVec.toNat_ofNat]
    omega

/-! ### The duty compare of a legal duty -/

/-- A legal duty is far enough from 0 and 100 percent to stay strictly inside a count of 977 or more. -/
theorem dutyCompare_legal {d : Word} (hd : legalDuty d = true) {ct : Nat} (hct : 977 ≤ ct) :
    0 < dutyCompare (unitsOf d) ct ∧ dutyCompare (unitsOf d) ct < ct := by
  obtain ⟨low, high⟩ := legalDuty_units hd
  have hpos := unitsPerOne_pos
  have hlow : unitsPerOne * ct ≤ 10 * (unitsOf d * ct) := by
    calc unitsPerOne * ct ≤ 10 * unitsOf d * ct := Nat.mul_le_mul_right ct low.le
      _ = 10 * (unitsOf d * ct) := Nat.mul_assoc ..
  have hhigh : 10 * (unitsOf d * ct) ≤ 999 * (unitsPerOne * ct) := by
    calc 10 * (unitsOf d * ct) = 10 * unitsOf d * ct := (Nat.mul_assoc ..).symm
      _ ≤ 999 * unitsPerOne * ct := Nat.mul_le_mul_right ct high.le
      _ = 999 * (unitsPerOne * ct) := Nat.mul_assoc ..
  have hwide : 977 * unitsPerOne ≤ unitsPerOne * ct := by
    rw [Nat.mul_comm]; exact Nat.mul_le_mul_left _ hct
  constructor
  · rw [dutyCompare, ← Nat.succ_le_iff, le_roundHalfUp_iff (by omega)]
    omega
  · rw [dutyCompare, roundHalfUp_lt_iff (by omega)]
    have hcomm : ct * (2 * (100 * unitsPerOne)) = 200 * (unitsPerOne * ct) := by ring
    omega

/-- At 32 MHz a legal configuration derives a valid, usable pulse with a count of at least 977 (rule R128). -/
theorem derive_legal {f d : Word} (hf : legalFreq f = true) (hd : legalDuty d = true) :
    (derive 32000000 f d).valid = true ∧ 977 ≤ (derive 32000000 f d).ct.toNat ∧
      UsablePulse (derive 32000000 f d).psc (derive 32000000 f d).ct (derive 32000000 f d).dc := by
  obtain ⟨r, hfit, hpsc, hct⟩ := fit_legal hf
  obtain ⟨hpos, hlt⟩ := dutyCompare_legal hd hct
  have hderive : derive 32000000 f d = Derived.ofFit 32000000 r (dutyCompare (unitsOf d) r.ct.toNat) := by
    rw [derive, hfit]
    exact if_neg (by omega)
  have hdc : (BitVec.ofNat 16 (dutyCompare (unitsOf d) r.ct.toNat)).toNat = dutyCompare (unitsOf d) r.ct.toNat :=
    (BitVec.toNat_ofNat ..).trans (Nat.mod_eq_of_lt (hlt.trans r.ct.isLt))
  rw [hderive]
  refine ⟨rfl, hct, hpsc, ?_⟩
  simp only [Derived.ofFit, hdc]
  exact ⟨hpos, hlt⟩

/-! ### Every change keeps the running channels audible at 32 MHz (rules R128, R140) -/

section
variable {s u : State}

/-- At 32 MHz what a start latches is a usable pulse. -/
theorem WellState.derived_usable (hs : WellState s) (hclock : s.clockHz = 32000000) (i : Chan) :
    UsablePulse (s.derived.get i).psc (s.derived.get i).ct (s.derived.get i).dc := by
  obtain ⟨_, _, husable⟩ := derive_legal (hs.freqLegal i) (hs.dutyLegal i)
  rw [hs.derivedCurrent i, hclock]
  exact husable

theorem RunsUsablePulses.afterStarts (hp : RunsUsablePulses s)
    (derived : ∀ i, UsablePulse (s.derived.get i).psc (s.derived.get i).ct (s.derived.get i).dc)
    (g : Mask) (visits : List Chan) : RunsUsablePulses (afterStarts g visits s) := fun i hrun => by
  simp only [Machine.afterStarts, getLsbD_mask_or, pick_get, nextLatched_get] at hrun ⊢
  cases hg : g.getLsbD i.val with
  | true => exact derived i
  | false =>
    simp only [hg, Bool.or_false] at hrun ⊢
    exact hp i hrun

theorem RunsUsablePulses.afterStops (hp : RunsUsablePulses s) (g : Mask) (visits : List Chan) :
    RunsUsablePulses (afterStops g visits s) := fun i hrun => hp i (running_of_afterStops hrun).1

theorem runsUsablePulses_of_stopped (h : s.run = 0#4) : RunsUsablePulses s := fun i hrun => by
  rw [h, getLsbD_mask_zero] at hrun
  cases hrun

theorem ChannelChange.runsUsablePulses (hclock : s.clockHz = 32000000) (hs : WellState s)
    (hp : RunsUsablePulses s) (h : ChannelChange s u) : RunsUsablePulses u := by
  cases h with
  | kept | freq | duty | count | folds | pulse => exact hp
  | starts g => exact hp.afterStarts (hs.derived_usable hclock) g []
  | stops g => exact hp.afterStops g []
  | lastPulse i => exact hp.afterStops (1#4 <<< i.val) [i]
  | powerDown | reset => exact runsUsablePulses_of_stopped rfl

/-- Settles O60: a start latches the current derivation, which is usable at 32 MHz; nothing else writes the
latched parameters of a channel that runs on. -/
theorem stepKeepsRunningChannelsAudible : Obligations.StepKeepsRunningChannelsAudible :=
  fun _ _ hclock hs hp hstep =>
    have ⟨_, _, husable⟩ := step_keeps (P := fun u => u.clockHz = 32000000 ∧ WellState u ∧ RunsUsablePulses u)
      (fun ⟨hc, hw, hu⟩ h => ⟨(clockHz_of_channels_eq h).trans hc, hw.of_channels_eq h, hu.of_channels_eq h⟩)
      (fun ⟨hc, hw, hu⟩ h => ⟨h.clockHz_eq.trans hc, h.wellState hw, h.runsUsablePulses hc hw hu⟩)
      ⟨hclock, hs, hp⟩ hstep
    husable

end

end Sys2Proof.Machine
end

section
/-! PROOFS of the family 10_state. What serving a request does to RUN, EXEC, REM, LT_* and the events is said once,
by `Effect` and `exec_effect`; O36, O37 and O41 are read off it case by case. O42 is an invariant of the channels,
carried to every step by `step_keeps`. -/

namespace Sys2Proof.Machine

/-! ### The batch requests in closed form (rules R160, R171, R175, R207, R208) -/

section
variable {s : State}

/-- A batch request depends only on EXEC as it was and on what its body makes of the state. -/
theorem serveBatch_congr {u : State} {f f' : State → State} (hexec : s.execState = u.execState)
    (hbody : f s.openRequest = f' u.openRequest) : serveBatch s f = serveBatch u f' := by
  simp only [serveBatch, serve, hexec, hbody]

/-- A batch request that starts and stops nothing. -/
theorem serveBatch_id (s : State) : serveBatch s id = .next (afterFoldOnly s) := by
  simp only [serveBatch, serve, id, fold_eq]
  rfl

theorem execEdge_start {k : Src} {lvl : Bool} (hactive : activeEdge lvl (s.tpol.get k) = true) :
    execEdge k lvl s = .next
      (afterStarts (startable (s.tmask.get k) s) (members (startable (s.tmask.get k) s)) s) :=
  serveBatch_started (by
    rw [State.openRequest_tpol, if_pos hactive]
    exact batchStart_eq _ _)

theorem execEdge_stop {k : Src} {lvl : Bool} (hactive : activeEdge lvl (s.tpol.get k) = false)
    (hact : s.tact.get k = .startAndStop) :
    execEdge k lvl s = .next (afterStops (s.tmask.get k &&& s.run) (members (s.tmask.get k &&& s.run)) s) :=
  serveBatch_halted (by
    simp only [State.openRequest_tpol, State.openRequest_tact, hactive, hact, Bool.false_eq_true, if_false]
    exact batchStop_eq _ _)

theorem execEdge_ignored {k : Src} {lvl : Bool} (hactive : activeEdge lvl (s.tpol.get k) = false)
    (hact : s.tact.get k = .startOnly) : execEdge k lvl s = .next (afterFoldOnly s) := by
  rw [← serveBatch_id]
  refine serveBatch_congr rfl ?_
  simp only [State.openRequest_tpol, State.openRequest_tact, hactive, hact, Bool.false_eq_true, if_false, id]

theorem execEdgeAll_start {lvl : Bool} (hactive : activeEdge lvl s.apol = true)
    (hact : s.aact = .triggerAll ∨ s.aact = .triggerAllAndStop) :
    execEdgeAll lvl s = .next (afterStarts (startable 0xF#4 s) (members (startable 0xF#4 s)) s) :=
  serveBatch_started (by
    rcases hact with hact | hact <;>
    · simp only [State.openRequest_apol, State.openRequest_aact, hactive, hact, if_true]
      exact batchStart_eq _ _)

theorem execEdgeAll_stop {lvl : Bool} (hactive : activeEdge lvl s.apol = false)
    (hact : s.aact = .triggerAllAndStop) :
    execEdgeAll lvl s = .next (afterStops (0xF#4 &&& s.run) (members (0xF#4 &&& s.run)) s) :=
  serveBatch_halted (by
    simp only [State.openRequest_apol, State.openRequest_aact, hactive, hact, Bool.false_eq_true, if_false]
    exact batchStop_eq _ _)

/-- In the Enable modes the active edge of the "all" source sets ENABLE and starts nothing (rule R176). -/
theorem execEdgeAll_enable {lvl : Bool} (hactive : activeEdge lvl s.apol = true)
    (hact : s.aact = .enable ∨ s.aact = .enableAndStop) :
    execEdgeAll lvl s = .next (afterFoldOnly { s with enable := 0xF#4 }) := by
  rw [← serveBatch_id]
  refine serveBatch_congr rfl ?_
  rcases hact with hact | hact <;>
  · simp only [State.openRequest_apol, State.openRequest_aact, hactive, hact, if_true]
    rfl

theorem execEdgeAll_disable {lvl : Bool} (hactive : activeEdge lvl s.apol = false) (hact : s.aact = .enableAndStop) :
    execEdgeAll lvl s = .next (afterFoldOnly { s with enable := 0x0#4 }) := by
  rw [← serveBatch_id]
  refine serveBatch_congr rfl ?_
  simp only [State.openRequest_apol, State.openRequest_aact, hactive, hact, Bool.false_eq_true, if_false]
  rfl

theorem execEdgeAll_ignored {lvl : Bool} (hactive : activeEdge lvl s.apol = false)
    (hact : s.aact = .triggerAll ∨ s.aact = .enable) : execEdgeAll lvl s = .next (afterFoldOnly s) := by
  rw [← serveBatch_id]
  refine serveBatch_congr rfl ?_
  rcases hact with hact | hact <;>
    simp only [State.openRequest_apol, State.openRequest_aact, hactive, hact, Bool.false_eq_true, if_false, id]

/-- `s` with one pulse less left on channel i (rules R160, R163). -/
def pulsed (i : Chan) (s : State) : State := { s with rem := s.rem.set i (s.rem.get i - 1#32) }

theorem execPulse_stopped {i : Chan} (hrun : s.run.getLsbD i.val = false) :
    execPulse i s = .next (afterFoldOnly s) := by
  rw [← serveBatch_id]
  refine serveBatch_congr rfl ?_
  simp only [State.openRequest_run, hrun, Bool.false_eq_true, if_false, id]

theorem execPulse_running {i : Chan} (hrun : s.run.getLsbD i.val = true)
    (hleft : ¬ ((s.latched.get i).mode = .count ∧ s.rem.get i - 1#32 = 0#32)) :
    execPulse i s = .next (afterFoldOnly (pulsed i s)) := by
  rw [← serveBatch_id]
  refine serveBatch_congr rfl ?_
  simp only [State.openRequest_run, State.openRequest_rem, State.openRequest_latched, hrun, if_true,
    Quad.get_set_same, if_neg hleft]
  rfl

theorem execPulse_last {i : Chan} (hrun : s.run.getLsbD i.val = true)
    (hlast : (s.latched.get i).mode = .count ∧ s.rem.get i - 1#32 = 0#32) :
    execPulse i s = .next (afterStops (1#4 <<< i.val) [i] (pulsed i s)) := by
  have hstop : (stop i (pulsed i s).openRequest).1 = halted (1#4 <<< i.val) [i] (pulsed i s).openRequest := by
    rw [stop_eq]
    exact congrArg Prod.fst (if_pos hrun)
  rw [← serveBatch_halted (f := fun t => (stop i t).1) hstop]
  refine serveBatch_congr rfl ?_
  simp only [State.openRequest_run, State.openRequest_rem, State.openRequest_latched, hrun, if_true,
    Quad.get_set_same, if_pos hlast]
  rfl

theorem execWrStart_accepted {v : Word} (hfits : fitsWidth 4 v = true) :
    execWrStart v s = .next (afterStarts (startable (unionOf (selectedMasks (maskOf v) s)) s)
      (visitOrder (~~~startable 0xF#4 s) (selectedMasks (maskOf v) s)) { s with startLatch := maskOf v }) := by
  rw [execWrStart, serveWrite_eq, hfits]
  exact serveBatch_started (cmdStart_eq (maskOf v) { s with startLatch := maskOf v }.openRequest)

theorem execWrStop_accepted {v : Word} (hfits : fitsWidth 4 v = true) :
    execWrStop v s = .next (afterStops (unionOf (selectedMasks (maskOf v) s) &&& s.run)
      (visitOrder (~~~s.run) (selectedMasks (maskOf v) s)) { s with stopLatch := maskOf v }) := by
  rw [execWrStop, serveWrite_eq, hfits]
  exact serveBatch_halted (cmdStop_eq (maskOf v) { s with stopLatch := maskOf v }.openRequest)

theorem serveWrite_rejected {legal : Bool} {f : State → State} (h : legal = false) :
    serveWrite legal s f = .next (answered false 0#32 s) := by
  subst h; rfl

theorem execPowerDown_eq (s : State) : execPowerDown s = .next { s with
    run := 0x0#4
    execState := 0x0#4
    events := (members s.run).map Event.tmrHalt
    resp := some ⟨true, 0#32⟩ } := by
  rw [execPowerDown, serve, haltRunning_eq]
  rfl

theorem execReset_eq (s : State) : execReset s = .next { deriveAll s.clockHz (loadDefaults s) with
    events := (members s.run).map Event.tmrHalt
    resp := some ⟨true, 0#32⟩ } := by
  rw [execReset, serve, haltRunning_eq, deriveAll_eq, deriveAll_eq]
  rfl

end

/-! ### Everything a request can do to the execution state -/

/-- `t` has the execution state of `s`, and nothing was emitted. -/
structure ExecutionKept (s t : State) : Prop where
  run : t.run = s.run
  execState : t.execState = s.execState
  rem : t.rem = s.rem
  latched : t.latched = s.latched
  events : t.events = []

/-- `visits` lists exactly the channels of `g`. -/
def Visits (g : Mask) (visits : List Chan) : Prop := ∀ j, j ∈ visits ↔ g.getLsbD j.val = true

/-- All that serving the instruction can do to RUN, EXEC, REM and LT_*, with the events it emits. -/
inductive Effect (s : State) : Instr → State → Prop
  /-- reads, rejected writes, and accepted writes that are no command -/
  | kept {i : Instr} {t : State} (same : ExecutionKept s t) : Effect s i t
  /-- a start command or an edge that starts channels (R171, R175, R207) -/
  | starts {i : Instr} (folds : Folds i) (latch m : Mask) {visits : List Chan}
      (visited : Visits (startable m s) visits) :
      Effect s i (afterStarts (startable m s) visits { s with startLatch := latch })
  /-- a stop command or an edge that stops channels (R171, R175, R208) -/
  | stops {i : Instr} (folds : Folds i) (latch m : Mask) {visits : List Chan}
      (visited : Visits (m &&& s.run) visits) :
      Effect s i (afterStops (m &&& s.run) visits { s with stopLatch := latch })
  /-- an edge or a pulse boundary that starts and stops nothing (R161, R171, R176) -/
  | foldOnly {i : Instr} (folds : Folds i) (enable : Mask) : Effect s i (afterFoldOnly { s with enable := enable })
  /-- a pulse boundary that leaves its channel running (R160, R163) -/
  | pulse (c : Chan) : Effect s (.pulse c) (afterFoldOnly (pulsed c s))
  /-- the pulse boundary that ends a Count channel (R160, R162) -/
  | lastPulse (c : Chan) : Effect s (.pulse c) (afterStops (1#4 <<< c.val) [c] (pulsed c s))
  /-- `power_down` (R290) -/
  | powerDown : Effect s .powerDown { s with
      run := 0x0#4
      execState := 0x0#4
      events := (members s.run).map Event.tmrHalt
      resp := some ⟨true, 0#32⟩ }
  /-- `reset` (R300) -/
  | reset : Effect s .reset { deriveAll s.clockHz (loadDefaults s) with
      events := (members s.run).map Event.tmrHalt
      resp := some ⟨true, 0#32⟩ }

section
variable {s t : State}

theorem visits_members (g : Mask) : Visits g (members g) := fun _ => mem_members

/-- A start command visits exactly the startable channels of the selected masks. -/
theorem visits_startable (ms : List Mask) (s : State) :
    Visits (startable (unionOf ms) s) (visitOrder (~~~startable 0xF#4 s) ms) := fun j => by
  rw [mem_visitOrder]
  simp only [getLsbD_mask_and, getLsbD_mask_not, startable_getLsbD, getLsbD_mask_full, Bool.not_not,
    Bool.true_and, Bool.and_assoc]

/-- A stop command visits exactly the running channels of the selected masks. -/
theorem visits_running (ms : List Mask) (r : Mask) : Visits (unionOf ms &&& r) (visitOrder (~~~r) ms) := fun j => by
  rw [mem_visitOrder]
  simp only [getLsbD_mask_and, getLsbD_mask_not, Bool.not_not]

theorem Effect.of_next {i : Instr} {u : State} {o : Host.Outcome State Fault Refusal} (hserved : o = .next u)
    (hu : Effect s i u) (h : o = .next t) : Effect s i t := by
  rw [hserved] at h
  cases h
  exact hu

theorem execEdge_effect (k : Src) (lvl : Bool) (h : execEdge k lvl s = .next t) : Effect s (.edge k lvl) t := by
  cases hactive : activeEdge lvl (s.tpol.get k) with
  | true =>
    exact .of_next (execEdge_start hactive) (.starts (by trivial) s.startLatch _ (visits_members _)) h
  | false =>
    cases hact : s.tact.get k with
    | startAndStop =>
      exact .of_next (execEdge_stop hactive hact) (.stops (by trivial) s.stopLatch _ (visits_members _)) h
    | startOnly => exact .of_next (execEdge_ignored hactive hact) (.foldOnly (by trivial) s.enable) h

theorem execEdgeAll_effect (lvl : Bool) (h : execEdgeAll lvl s = .next t) : Effect s (.edgeAll lvl) t := by
  cases hactive : activeEdge lvl s.apol with
  | true =>
    have hstart := fun hact => Effect.of_next (execEdgeAll_start hactive hact)
      (.starts (i := .edgeAll lvl) trivial s.startLatch _ (visits_members _)) h
    have henable := fun hact => Effect.of_next (execEdgeAll_enable hactive hact)
      (.foldOnly (i := .edgeAll lvl) trivial 0xF#4) h
    cases hact : s.aact with
    | triggerAll => exact hstart (.inl hact)
    | triggerAllAndStop => exact hstart (.inr hact)
    | enable => exact henable (.inl hact)
    | enableAndStop => exact henable (.inr hact)
  | false =>
    have hignored := fun hact => Effect.of_next (execEdgeAll_ignored hactive hact)
      (.foldOnly (i := .edgeAll lvl) trivial s.enable) h
    cases hact : s.aact with
    | triggerAll => exact hignored (.inl hact)
    | enable => exact hignored (.inr hact)
    | triggerAllAndStop =>
      exact .of_next (execEdgeAll_stop hactive hact) (.stops (by trivial) s.stopLatch _ (visits_members _)) h
    | enableAndStop => exact .of_next (execEdgeAll_disable hactive hact) (.foldOnly (by trivial) 0x0#4) h

theorem execPulse_effect (c : Chan) (h : execPulse c s = .next t) : Effect s (.pulse c) t := by
  cases hrun : s.run.getLsbD c.val with
  | false => exact .of_next (execPulse_stopped hrun) (.foldOnly (by trivial) s.enable) h
  | true =>
    by_cases hlast : (s.latched.get c).mode = .count ∧ s.rem.get c - 1#32 = 0#32
    · exact .of_next (execPulse_last hrun hlast) (.lastPulse c) h
    · exact .of_next (execPulse_running hrun hlast) (.pulse c) h

theorem answered_kept (ok : Bool) (w : Word) (s : State) : ExecutionKept s (answered ok w s) :=
  ⟨rfl, rfl, rfl, rfl, rfl⟩

theorem execWrStart_effect (v : Word) (h : execWrStart v s = .next t) : Effect s (.wrStart v) t := by
  cases hfits : fitsWidth 4 v with
  | true => exact .of_next (execWrStart_accepted hfits) (.starts (by trivial) _ _ (visits_startable _ _)) h
  | false => exact .of_next (serveWrite_rejected hfits) (.kept (answered_kept ..)) h

theorem execWrStop_effect (v : Word) (h : execWrStop v s = .next t) : Effect s (.wrStop v) t := by
  cases hfits : fitsWidth 4 v with
  | true => exact .of_next (execWrStop_accepted hfits) (.stops (by trivial) _ _ (visits_running _ _)) h
  | false => exact .of_next (serveWrite_rejected hfits) (.kept (answered_kept ..)) h

/-- A write whose accepted effect keeps the execution state keeps it when rejected, too. -/
theorem serveWrite_kept {legal : Bool} {f : State → State} (accepted : ExecutionKept s (f s.openRequest))
    (h : serveWrite legal s f = .next t) : ExecutionKept s t := by
  cases legal with
  | true => cases h; exact { accepted with }
  | false => cases h; exact answered_kept ..

/-- Every instruction has one of the listed effects. -/
theorem exec_effect {i : Instr} (h : exec i s = .next t) : Effect s i t := by
  cases i with dsimp only [exec] at h
  | edge k lvl => exact execEdge_effect k lvl h
  | edgeAll lvl => exact execEdgeAll_effect lvl h
  | pulse c => exact execPulse_effect c h
  | wrStart v => exact execWrStart_effect v h
  | wrStop v => exact execWrStop_effect v h
  | powerDown => exact .of_next (execPowerDown_eq s) .powerDown h
  | reset => exact .of_next (execReset_eq s) .reset h
  | wrFreq | wrDuty | wrCount | wrMode | wrTrigMask | wrTrigMode | wrAllMode | wrEnable | wrConfirm | wrSingleShot
  | wrEvtEn | wrRealFreq | wrRealDuty | wrTrigState | wrRunState | wrExecState =>
    exact .kept (serveWrite_kept ⟨rfl, rfl, rfl, rfl, rfl⟩ h)
  | rdFreq | rdDuty | rdCount | rdMode | rdRealFreq | rdRealDuty | rdTrigMask | rdTrigMode | rdAllMode | rdStart
  | rdStop | rdEnable | rdConfirm | rdSingleShot | rdTrigState | rdRunState | rdExecState | rdEvtEn =>
    cases h; exact .kept ⟨rfl, rfl, rfl, rfl, rfl⟩

/-! ### What stays of a running channel (rules R36, R46, R142) -/

theorem not_startable_of_running {m : Mask} {j : Chan} (hrun : s.run.getLsbD j.val = true) :
    (startable m s).getLsbD j.val = false := by
  rw [startable_getLsbD, hrun, Bool.not_true, Bool.and_false, Bool.false_and]

theorem pulsed_rem_ne {c j : Chan} (h : j ≠ c) : (pulsed c s).rem.get j = s.rem.get j :=
  Quad.get_set_ne _ _ h

/-- Settles O36: a start passes over a running channel, and a pulse boundary counts its own channel only. -/
theorem runningChannelKeepsItsParameters : Obligations.RunningChannelKeepsItsParameters := by
  intro i s t j h hreset hrun
  cases exec_effect h with
  | kept same => exact ⟨by rw [same.latched], fun _ => by rw [same.rem]⟩
  | starts folds latch m visited =>
    have hj := not_startable_of_running (m := m) hrun
    simp only [afterStarts, pick_get, hj, Bool.false_eq_true, if_false, implies_true, and_self]
  | stops | foldOnly | powerDown => exact ⟨rfl, fun _ => rfl⟩
  | pulse c | lastPulse c => exact ⟨rfl, fun hother => pulsed_rem_ne fun hj => hother (hj ▸ rfl)⟩
  | reset => exact absurd rfl hreset

/-- Settles O37: every effect but `kept` belongs to a folding request, POWER_DOWN or RESET. -/
theorem onlyBatchesAndLifecycleTouchExecution : Obligations.OnlyBatchesAndLifecycleTouchExecution := by
  intro i s t h hfolds hpower hreset
  cases exec_effect h with
  | kept same => exact ⟨same.run, same.execState, same.rem, same.latched, same.events⟩
  | starts folds | stops folds | foldOnly folds => exact absurd folds hfolds
  | pulse | lastPulse => exact absurd trivial hfolds
  | powerDown => exact absurd rfl hpower
  | reset => exact absurd rfl hreset

/-! ### What the timer units are told (rules R33, R164) -/

theorem getLsbD_timersAfter_programs (params : Chan → Derived) (visits : List Chan) (active : Mask) (j : Chan) :
    ((visits.map fun i => programEvent (params i) i).foldl timersAfter active).getLsbD j.val
      = (active.getLsbD j.val || decide (j ∈ visits)) := by
  induction visits generalizing active with
  | nil => simp
  | cons i visits ih =>
    rw [List.map_cons, List.foldl_cons, ih, programEvent, timersAfter, getLsbD_setBit]
    simp only [List.mem_cons, Bool.decide_or]
    ac_rfl

theorem getLsbD_timersAfter_halts (visits : List Chan) (active : Mask) (j : Chan) :
    ((visits.map Event.tmrHalt).foldl timersAfter active).getLsbD j.val
      = (active.getLsbD j.val && !decide (j ∈ visits)) := by
  induction visits generalizing active with
  | nil => simp
  | cons i visits ih =>
    rw [List.map_cons, List.foldl_cons, ih, timersAfter, getLsbD_clearBit]
    simp only [List.mem_cons, Bool.decide_or, Bool.not_or]
    ac_rfl

theorem Visits.decide_mem {g : Mask} {visits : List Chan} (h : Visits g visits) (j : Chan) :
    decide (j ∈ visits) = g.getLsbD j.val :=
  Bool.eq_iff_iff.2 (decide_eq_true_iff.trans (h j))

/-- Programming the channels of `g` makes exactly their timer units active, whatever was active before. -/
theorem timersAfter_programs {g : Mask} {visits : List Chan} (h : Visits g visits) (params : Chan → Derived)
    (active : Mask) :
    (visits.map fun i => programEvent (params i) i).foldl timersAfter active = active ||| g :=
  mask_ext fun j => by rw [getLsbD_timersAfter_programs, h.decide_mem, getLsbD_mask_or]

theorem timersAfter_halts {g : Mask} {visits : List Chan} (h : Visits g visits) (active : Mask) :
    (visits.map Event.tmrHalt).foldl timersAfter active = active &&& ~~~g :=
  mask_ext fun j => by rw [getLsbD_timersAfter_halts, h.decide_mem, getLsbD_mask_and, getLsbD_mask_not]

/-- A notification tells the timer units nothing. -/
theorem timersAfter_notifyFor (run' active : Mask) (s : State) :
    (notifyFor run' s).foldl timersAfter active = active := by
  unfold notifyFor
  split <;> rfl

theorem timersAfter_halt_running (run : Mask) : ((members run).map Event.tmrHalt).foldl timersAfter run = 0#4 := by
  rw [timersAfter_halts (visits_members run)]
  exact BitVec.and_not_self run

theorem visits_bit (c : Chan) : Visits (1#4 <<< c.val) [c] := fun j => by
  rw [getLsbD_bit, List.mem_singleton, decide_eq_true_iff]

/-- Settles O41: TMR_PROGRAM goes to exactly the channels that are started, TMR_HALT to exactly those stopped. -/
theorem timerUnitsFollowRun : Obligations.TimerUnitsFollowRun := by
  intro i s t h
  cases exec_effect h with
  | kept same => rw [same.events, same.run, List.foldl_nil]
  | starts folds latch m visited =>
    simp only [afterStarts, List.foldl_append, timersAfter_programs visited, timersAfter_notifyFor]
  | stops folds latch m visited =>
    simp only [afterStops, List.foldl_append, timersAfter_halts visited, timersAfter_notifyFor]
  | foldOnly | pulse => exact timersAfter_notifyFor ..
  | lastPulse c =>
    simp only [afterStops, List.foldl_append, timersAfter_halts (visits_bit c), timersAfter_notifyFor, pulsed]
  | powerDown | reset => exact timersAfter_halt_running s.run

/-! ### EXEC = RUN between requests (rules R40, R41) -/

theorem ChannelChange.execIsRun (hs : s.execState = s.run) (h : ChannelChange s t) : t.execState = t.run := by
  cases h with
  | kept | freq | duty | count => exact hs
  | starts | stops | folds | pulse | lastPulse | powerDown | reset => rfl

theorem execIsRun_of_channels_eq (hs : s.execState = s.run) (h : t.channels = s.channels) :
    t.execState = t.run := by
  have hexec : t.channels.execState = s.channels.execState := by rw [h]
  have hrun : t.channels.run = s.channels.run := by rw [h]
  exact hexec.trans (hs.trans hrun.symm)

theorem mask_ne_zero_iff {m : Mask} : m ≠ 0#4 ↔ ∃ j : Chan, m.getLsbD j.val = true := by
  revert m; decide

theorem syncAll_iff (s : State) : s.syncAll = true ↔ ∃ j : Chan, s.execState.getLsbD j.val = true :=
  bne_iff_ne.trans mask_ne_zero_iff

/-- Settles O42: every change of the channels keeps EXEC = RUN, and the levels are read from the two. -/
theorem execEqualsRunAndSyncLevelsFollow : Obligations.ExecEqualsRunAndSyncLevelsFollow := by
  intro s t hs hstep
  have hexec : t.execState = t.run := step_keeps (P := fun u => u.execState = u.run)
    execIsRun_of_channels_eq ChannelChange.execIsRun hs hstep
  exact ⟨hexec, fun _ => rfl, hexec ▸ syncAll_iff t⟩

end

end Sys2Proof.Machine
end

section
/-! PROOFS of the family 20_memory. The events of each effect that `exec_effect` lists are those of its visited
channels, all timer events, and then what the fold notifies (O39). -/

namespace Sys2Proof.Machine

/-- Timer events, then at most one NOTIFY of EXEC_STATE (rules R70, R152). -/
def TimerEventsThenNotify (events : List Event) : Prop :=
  ∃ l : List Event, (∀ e ∈ l, e.isNotify = false) ∧ (events = l ∨ events = l ++ [.notify 0x28#8])

theorem notifyFor_eq_nil_or_notify (run' : Mask) (s : State) :
    notifyFor run' s = [] ∨ notifyFor run' s = [.notify 0x28#8] := by
  unfold notifyFor
  split
  · exact .inr rfl
  · exact .inl rfl

/-- One timer event per visited channel, and no fold. -/
theorem timerEvents_map {f : Chan → Event} (timer : ∀ i, (f i).isNotify = false) (visits : List Chan) :
    TimerEventsThenNotify (visits.map f) :=
  ⟨visits.map f, List.forall_mem_map.2 fun i _ => timer i, .inl rfl⟩

/-- One timer event per visited channel, then the fold of the request (rule R150). -/
theorem timerEvents_map_notifyFor {f : Chan → Event} (timer : ∀ i, (f i).isNotify = false) (visits : List Chan)
    (run' : Mask) (s : State) : TimerEventsThenNotify (visits.map f ++ notifyFor run' s) := by
  refine ⟨visits.map f, List.forall_mem_map.2 fun i _ => timer i, ?_⟩
  rcases notifyFor_eq_nil_or_notify run' s with hnone | hone
  · exact .inl (by rw [hnone, List.append_nil])
  · exact .inr (by rw [hone])

theorem programEvent_isNotify (d : Derived) (i : Chan) : (programEvent d i).isNotify = false := rfl

theorem tmrHalt_isNotify (i : Chan) : (Event.tmrHalt i).isNotify = false := rfl

/-- Settles O39: a NOTIFY comes from the fold alone, and each request folds at most once, at its end. -/
theorem eventsEndWithAtMostOneNotify : Obligations.EventsEndWithAtMostOneNotify := by
  intro i s t h
  change TimerEventsThenNotify t.events
  cases exec_effect h with
  | kept same => exact same.events ▸ timerEvents_map tmrHalt_isNotify []
  | starts => exact timerEvents_map_notifyFor (fun i => programEvent_isNotify _ i) _ _ _
  | stops | lastPulse => exact timerEvents_map_notifyFor tmrHalt_isNotify _ _ _
  | foldOnly | pulse => exact timerEvents_map_notifyFor tmrHalt_isNotify [] _ _
  | powerDown | reset => exact timerEvents_map tmrHalt_isNotify (members s.run)

end Sys2Proof.Machine
end

section
/-! PROOFS of the family 30_encoding. `decode` is said once per KIND, on headers put together by `mkHeader`, which
every header with RSV zero is. O8 rests on an element's address keeping its group and its index. `decodesIffLegal`
says everything the decoder does, and O9, O4 and O3 are read off it. -/

namespace Sys2Proof

/-! ### Register addresses (rules R86, R100) -/

/-- An element's address does not leave its group, whose first address is a multiple of 4. -/
theorem elemAddr_toNat {base : Addr} (aligned : base.toNat % 4 = 0) (k : Fin 4) :
    (elemAddr base k).toNat = base.toNat + k.val := by
  simp only [elemAddr, BitVec.toNat_add, BitVec.toNat_ofNat]
  omega

theorem groupOf_elemAddr {base : Addr} (aligned : base.toNat % 4 = 0) (k : Fin 4) :
    groupOf (elemAddr base k) = groupOf base := by
  apply BitVec.eq_of_toNat_eq
  rw [groupOf_toNat, groupOf_toNat, elemAddr_toNat aligned]
  omega

theorem indexOf_elemAddr {base : Addr} (aligned : base.toNat % 4 = 0) (k : Fin 4) :
    indexOf (elemAddr base k) = k := by
  apply Fin.ext
  rw [indexOf_val, elemAddr_toNat aligned]
  omega

/-- An address is the element of its group that its index says. -/
theorem elemAddr_indexOf {a base : Addr} (aligned : base.toNat % 4 = 0)
    (group : (groupOf a).toNat = base.toNat / 4) : elemAddr base (indexOf a) = a := by
  apply BitVec.eq_of_toNat_eq
  rw [elemAddr_toNat aligned, indexOf_val]
  rw [groupOf_toNat] at group
  omega

theorem groupOf_eq_zero_iff {a : Addr} : groupOf a = 0#6 ↔ a.toNat < 4 := by
  rw [← BitVec.toNat_inj, groupOf_toNat]
  exact Nat.div_eq_zero_iff_lt (by decide)

/-! ### The register tables read backwards (rules R85, R100, R101) -/

/-- All that `decodeWrite` does: a mapped address is read as the register it encodes, an address above 0x29 is
refused. -/
theorem decodeWrite_spec (a : Addr) (v : Word) :
    (a.toNat ≤ 0x29 ∧ ∃ i, decodeWrite a v = .ok i ∧ encode i = wrRequest a v) ∨
      (0x29 < a.toNat ∧ decodeWrite a v = .error .unmappedAddress) := by
  have hgroup := groupOf_toNat a
  unfold decodeWrite
  dsimp only
  split
  case h_9 =>
    split
    case h_11 =>
      have hunmapped : 0x29 < a.toNat := by
        simp only [imp_false] at *
        omega
      exact .inr ⟨hunmapped, rfl⟩
    all_goals
      rename_i addr
      exact .inl ⟨by omega, _, rfl, congrArg (wrRequest · v) (BitVec.eq_of_toNat_eq addr.symm)⟩
  all_goals
    rename_i group
    exact .inl ⟨by omega, _, rfl, congrArg (wrRequest · v) (elemAddr_indexOf (by decide) group)⟩

/-- All that `decodeRead` does, over the same addresses. -/
theorem decodeRead_spec (a : Addr) :
    (a.toNat ≤ 0x29 ∧ ∃ i, decodeRead a = .ok i ∧ encode i = rdRequest a) ∨
      (0x29 < a.toNat ∧ decodeRead a = .error .unmappedAddress) := by
  have hgroup := groupOf_toNat a
  unfold decodeRead
  dsimp only
  split
  case h_9 =>
    split
    case h_11 =>
      have hunmapped : 0x29 < a.toNat := by
        simp only [imp_false] at *
        omega
      exact .inr ⟨hunmapped, rfl⟩
    all_goals
      rename_i addr
      exact .inl ⟨by omega, _, rfl, congrArg rdRequest (BitVec.eq_of_toNat_eq addr.symm)⟩
  all_goals
    rename_i group
    exact .inl ⟨by omega, _, rfl, congrArg rdRequest (elemAddr_indexOf (by decide) group)⟩

/-! ### The decoder, KIND by KIND (rules R81, R82, R85) -/

/-- A header with RSV zero is put together from its other three fields. -/
theorem eq_mkHeader {h : Header} (hrsv : rsvOf h = 0#4) : h = mkHeader (kindOf h) (lvlOf h) (argOf h) := by
  conv_lhs => rw [header_eq h, hrsv]
  rfl

theorem decode_of_reserved {r : Request} (hrsv : rsvOf r.hdr ≠ 0#4) : decode r = .error .reservedBits :=
  if_pos hrsv

section
variable (l : Bool) (a : Addr) (v : Word)

theorem decode_wr : decode ⟨mkHeader 0#3 l a, v⟩ = if l then .error .levelBit else decodeWrite a v := by
  simp [decode]

theorem decode_rd : decode ⟨mkHeader 1#3 l a, v⟩ = if l then .error .levelBit else decodeRead a := by
  simp [decode]

theorem decode_edge : decode ⟨mkHeader 2#3 l a, v⟩ =
    if groupOf a ≠ 0#6 then .error .argument else .ok (.edge (indexOf a) l) := by
  simp [decode]

theorem decode_edgeAll : decode ⟨mkHeader 3#3 l a, v⟩ =
    if a ≠ 0#8 then .error .argument else .ok (.edgeAll l) := by
  simp [decode]

theorem decode_pulse : decode ⟨mkHeader 4#3 l a, v⟩ =
    if l then .error .levelBit
    else if groupOf a ≠ 0#6 then .error .argument else .ok (.pulse (indexOf a)) := by
  simp [decode]

theorem decode_powerDown : decode ⟨mkHeader 5#3 l a, v⟩ =
    if l then .error .levelBit else if a ≠ 0#8 then .error .argument else .ok .powerDown := by
  simp [decode]

theorem decode_reset : decode ⟨mkHeader 6#3 l a, v⟩ =
    if l then .error .levelBit else if a ≠ 0#8 then .error .argument else .ok .reset := by
  simp [decode]

theorem decode_kind7 : decode ⟨mkHeader 7#3 l a, v⟩ = .error .reservedKind := by
  simp [decode]

end

theorem decode_wrRequest (a : Addr) (v : Word) : decode (wrRequest a v) = decodeWrite a v := decode_wr false a v

theorem decode_rdRequest (a : Addr) : decode (rdRequest a) = decodeRead a := decode_rd false a 0#32

/-! ### The request of every instruction decodes to it (rules R100, R102) -/

/-- Settles O8: the fields of an assembled header are its parts, and so are the group and the index of an
element's address. -/
theorem decodeOfEncodeIsTheInstruction : Obligations.DecodeOfEncodeIsTheInstruction := by
  intro i
  cases i with
  | wrFreq k v | wrDuty k v | wrCount k v | wrMode k v | wrRealFreq k v | wrRealDuty k v | wrTrigMask k v
  | wrTrigMode k v =>
    rw [encode, decode_wrRequest, decodeWrite, groupOf_elemAddr (by decide), indexOf_elemAddr (by decide)]
    rfl
  | rdFreq k | rdDuty k | rdCount k | rdMode k | rdRealFreq k | rdRealDuty k | rdTrigMask k | rdTrigMode k =>
    rw [encode, decode_rdRequest, decodeRead, groupOf_elemAddr (by decide), indexOf_elemAddr (by decide)]
    rfl
  | wrAllMode v | wrStart v | wrStop v | wrEnable v | wrConfirm v | wrSingleShot v | wrTrigState v | wrRunState v
  | wrExecState v | wrEvtEn v => exact decode_wrRequest _ v
  | rdAllMode | rdStart | rdStop | rdEnable | rdConfirm | rdSingleShot | rdTrigState | rdRunState | rdExecState
  | rdEvtEn => exact decode_rdRequest _
  | edge k l =>
    rw [encode, decode_edge, groupOf_elemAddr (by decide), indexOf_elemAddr (by decide)]
    rfl
  | edgeAll l => exact decode_edgeAll l 0#8 0#32
  | pulse k =>
    rw [encode, decode_pulse, groupOf_elemAddr (by decide), indexOf_elemAddr (by decide)]
    rfl
  | powerDown => exact decode_powerDown false 0#8 0#32
  | reset => exact decode_reset false 0#8 0#32

/-! ### Legality (rule R87) -/

/-- The list of rule R87, said of the fields. -/
theorem wellFormed_iff (r : Request) : r.wellFormed = true ↔
    rsvOf r.hdr = 0#4 ∧ kindOf r.hdr ≠ 7#3 ∧ (lvlOf r.hdr = true → kindOf r.hdr = 2#3 ∨ kindOf r.hdr = 3#3) ∧
      (kindOf r.hdr = 0#3 ∨ kindOf r.hdr = 1#3 → (argOf r.hdr).toNat ≤ 0x29) ∧
      (kindOf r.hdr = 2#3 ∨ kindOf r.hdr = 4#3 → (argOf r.hdr).toNat < 4) ∧
      (kindOf r.hdr = 3#3 ∨ kindOf r.hdr = 5#3 ∨ kindOf r.hdr = 6#3 → argOf r.hdr = 0#8) := by
  simp [Request.wellFormed, rsvClear, kindDefined, levelAllowed, addressMapped, indexInRange, argClear,
    imp_iff_not_or, and_assoc, or_assoc]

theorem wellFormed_mkHeader (kind : BitVec 3) (l : Bool) (a : Addr) (v : Word) :
    (⟨mkHeader kind l a, v⟩ : Request).wellFormed = true ↔
      kind ≠ 7#3 ∧ (l = true → kind = 2#3 ∨ kind = 3#3) ∧ (kind = 0#3 ∨ kind = 1#3 → a.toNat ≤ 0x29) ∧
        (kind = 2#3 ∨ kind = 4#3 → a.toNat < 4) ∧ (kind = 3#3 ∨ kind = 5#3 ∨ kind = 6#3 → a = 0#8) := by
  simp [wellFormed_iff]

/-! ### Everything the decoder does (rules R83, R85, R87) -/

/-- `r` is the request of `i`, but for the data word that a request other than a write ignores (rule R83). -/
structure IsRequestOf (i : Instr) (r : Request) : Prop where
  header : (encode i).hdr = r.hdr
  written : kindOf r.hdr = 0#3 → (encode i).data = r.data
  ignored : kindOf r.hdr ≠ 0#3 → (encode i).data = 0#32

theorem isRequestOf_wr {i : Instr} {a : Addr} {v : Word} (h : encode i = wrRequest a v) :
    IsRequestOf i ⟨mkHeader 0#3 false a, v⟩ :=
  ⟨congrArg Request.hdr h, fun _ => congrArg Request.data h, fun hk => absurd (kindOf_mkHeader _ _ _) hk⟩

theorem isRequestOf_other {i : Instr} {kind : BitVec 3} {l : Bool} {a : Addr} {v : Word} (hkind : kind ≠ 0#3)
    (h : encode i = ⟨mkHeader kind l a, 0#32⟩) : IsRequestOf i ⟨mkHeader kind l a, v⟩ :=
  ⟨(congrArg Request.hdr h :), fun hk => absurd ((kindOf_mkHeader _ _ _).symm.trans hk) hkind,
    fun _ => (congrArg Request.data h :)⟩

/-- A legal request decodes to the operation it is the request of; an illegal one is refused. -/
def DecodesIffLegal (r : Request) : Prop :=
  (r.wellFormed = true ∧ ∃ i, decode r = .ok i ∧ IsRequestOf i r) ∨
    (¬ r.wellFormed = true ∧ ∃ e, decode r = .error e)

section
variable (l : Bool) (a : Addr) (v : Word)

theorem decodesIffLegal_wr : DecodesIffLegal ⟨mkHeader 0#3 l a, v⟩ := by
  cases l with
  | true => exact .inr ⟨by simp [wellFormed_mkHeader], _, decode_wr true a v⟩
  | false =>
    rcases decodeWrite_spec a v with ⟨hmapped, i, hok, henc⟩ | ⟨hunmapped, herr⟩
    · exact .inl ⟨by simp [wellFormed_mkHeader, hmapped], i, (decode_wrRequest a v).trans hok, isRequestOf_wr henc⟩
    · exact .inr ⟨by simp [wellFormed_mkHeader, hunmapped], _, (decode_wrRequest a v).trans herr⟩

theorem decodesIffLegal_rd : DecodesIffLegal ⟨mkHeader 1#3 l a, v⟩ := by
  cases l with
  | true => exact .inr ⟨by simp [wellFormed_mkHeader], _, decode_rd true a v⟩
  | false =>
    rcases decodeRead_spec a with ⟨hmapped, i, hok, henc⟩ | ⟨hunmapped, herr⟩
    · exact .inl ⟨by simp [wellFormed_mkHeader, hmapped], i, (decode_rd false a v).trans hok,
        isRequestOf_other (by decide) henc⟩
    · exact .inr ⟨by simp [wellFormed_mkHeader, hunmapped], _, (decode_rd false a v).trans herr⟩

theorem decodesIffLegal_edge : DecodesIffLegal ⟨mkHeader 2#3 l a, v⟩ := by
  by_cases hgroup : groupOf a = 0#6
  · have henc : encode (.edge (indexOf a) l) = ⟨mkHeader 2#3 l a, 0#32⟩ := by
      rw [encode, elemAddr_indexOf (by decide) (congrArg BitVec.toNat hgroup)]
    exact .inl ⟨by simp [wellFormed_mkHeader, groupOf_eq_zero_iff.1 hgroup], _,
      (decode_edge l a v).trans (if_neg (not_not.2 hgroup)), isRequestOf_other (by decide) henc⟩
  · exact .inr ⟨by simpa [wellFormed_mkHeader, groupOf_eq_zero_iff] using hgroup, _,
      (decode_edge l a v).trans (if_pos hgroup)⟩

theorem decodesIffLegal_edgeAll : DecodesIffLegal ⟨mkHeader 3#3 l a, v⟩ := by
  by_cases harg : a = 0#8
  · subst harg
    exact .inl ⟨by simp [wellFormed_mkHeader], _, decode_edgeAll l 0#8 v, isRequestOf_other (by decide) rfl⟩
  · exact .inr ⟨by simp [wellFormed_mkHeader, harg], _, (decode_edgeAll l a v).trans (if_pos harg)⟩

theorem decodesIffLegal_pulse : DecodesIffLegal ⟨mkHeader 4#3 l a, v⟩ := by
  cases l with
  | true => exact .inr ⟨by simp [wellFormed_mkHeader], _, decode_pulse true a v⟩
  | false =>
    by_cases hgroup : groupOf a = 0#6
    · have henc : encode (.pulse (indexOf a)) = ⟨mkHeader 4#3 false a, 0#32⟩ := by
        rw [encode, elemAddr_indexOf (by decide) (congrArg BitVec.toNat hgroup)]
      exact .inl ⟨by simp [wellFormed_mkHeader, groupOf_eq_zero_iff.1 hgroup], _,
        (decode_pulse false a v).trans (if_neg (not_not.2 hgroup)), isRequestOf_other (by decide) henc⟩
    · exact .inr ⟨by simpa [wellFormed_mkHeader, groupOf_eq_zero_iff] using hgroup, _,
        (decode_pulse false a v).trans (if_pos hgroup)⟩

/-- POWER_DOWN and RESET, the kinds that leave LVL and ARG zero. -/
theorem decodesIffLegal_lifecycle {kind : BitVec 3} {i : Instr} (hkind : kind = 5#3 ∨ kind = 6#3)
    (hdecode : decode ⟨mkHeader kind l a, v⟩ =
      if l then .error .levelBit else if a ≠ 0#8 then .error .argument else .ok i)
    (henc : encode i = ⟨mkHeader kind false 0#8, 0#32⟩) : DecodesIffLegal ⟨mkHeader kind l a, v⟩ := by
  rw [DecodesIffLegal, wellFormed_mkHeader, hdecode]
  cases l with
  | true => exact .inr ⟨by rcases hkind with rfl | rfl <;> simp, _, rfl⟩
  | false =>
    by_cases harg : a = 0#8
    · subst harg
      exact .inl ⟨by rcases hkind with rfl | rfl <;> simp, i, rfl,
        isRequestOf_other (by rcases hkind with rfl | rfl <;> decide) henc⟩
    · exact .inr ⟨by rcases hkind with rfl | rfl <;> simp [harg], _, if_pos harg⟩

theorem decodesIffLegal_kind7 : DecodesIffLegal ⟨mkHeader 7#3 l a, v⟩ :=
  .inr ⟨by simp [wellFormed_mkHeader], _, decode_kind7 l a v⟩

end

theorem decodesIffLegal (r : Request) : DecodesIffLegal r := by
  by_cases hrsv : rsvOf r.hdr = 0#4
  · obtain ⟨h, v⟩ := r
    rw [eq_mkHeader (h := h) hrsv]
    rcases kind_cases (kindOf h) with hk | hk | hk | hk | hk | hk | hk | hk <;> rw [hk]
    · exact decodesIffLegal_wr _ _ v
    · exact decodesIffLegal_rd _ _ v
    · exact decodesIffLegal_edge _ _ v
    · exact decodesIffLegal_edgeAll _ _ v
    · exact decodesIffLegal_pulse _ _ v
    · exact decodesIffLegal_lifecycle _ _ v (.inl rfl) (decode_powerDown _ _ v) rfl
    · exact decodesIffLegal_lifecycle _ _ v (.inr rfl) (decode_reset _ _ v) rfl
    · exact decodesIffLegal_kind7 _ _ v
  · exact .inr ⟨fun hlegal => hrsv ((wellFormed_iff r).1 hlegal).1, _, decode_of_reserved hrsv⟩

/-- Settles O4: both sides say which of the two outcomes of `decodesIffLegal` it is. -/
theorem headerDecodesExactlyWhenLegal : Obligations.HeaderDecodesExactlyWhenLegal := by
  intro r
  rcases decodesIffLegal r with ⟨hlegal, i, hok, _⟩ | ⟨hillegal, e, herr⟩
  · exact iff_of_true ⟨i, hok⟩ hlegal
  · exact iff_of_false (by simp [herr]) hillegal

/-- Settles O9: an illegal request does not decode, and a legal one decodes to what it is the request of. -/
theorem encodeOfDecodeIsTheRequest : Obligations.EncodeOfDecodeIsTheRequest := by
  intro r i h
  rcases decodesIffLegal r with ⟨_, j, hok, hreq⟩ | ⟨_, e, herr⟩
  · cases hok.symm.trans h
    exact ⟨hreq.header, hreq.written, hreq.ignored⟩
  · cases herr.symm.trans h

/-- Settles O7: the decoder runs on each of the headers. -/
theorem specHeadersDecode : Obligations.SpecHeadersDecode := by
  unfold Obligations.SpecHeadersDecode
  decide

/-! ### What the data word does (rule R83) -/

theorem decode_data_irrelevant {h : Header} (hkind : kindOf h ≠ 0#3) (d e : Word) :
    decode ⟨h, d⟩ = decode ⟨h, e⟩ := by
  by_cases hrsv : rsvOf h = 0#4
  · rw [eq_mkHeader hrsv]
    rcases kind_cases (kindOf h) with hk | hk | hk | hk | hk | hk | hk | hk
    case inl => exact absurd hk hkind
    all_goals
      rw [hk]
      simp only [decode_rd, decode_edge, decode_edgeAll, decode_pulse, decode_powerDown, decode_reset, decode_kind7]
  · exact (decode_of_reserved (r := ⟨h, d⟩) hrsv).trans (decode_of_reserved (r := ⟨h, e⟩) hrsv).symm

end Sys2Proof

namespace Sys2Proof.Machine

/-! ### Steps of one presented request (rules R80, R87) -/

theorem takeRequest_singleton (s : State) (who : Issuer) (r : Request) :
    takeRequest { s with port := [⟨who, r⟩] } = some (r, { s with port := [], arb := s.arb + 1 }) := by
  simp [takeRequest, nextIssuer, takeFrom]

/-- Settles O2: the decoder reads the instruction from the one request that is presented. -/
theorem presentedWordRunsNext : Obligations.PresentedWordRunsNext := by
  intro s nbits w i h
  have hdecode : decode (requestOfBits nbits w) = .ok i := by
    unfold decodeTableWord at h
    split at h
    · next heq => cases h; exact heq
    · cases h
  exact step_of_decode_ok (takeRequest_singleton s _ _) hdecode

/-- A step sees a request only through what it decodes to. -/
theorem step_congr_of_decode {s s' t : State} {r r' : Request} (htake : takeRequest s = some (r, t))
    (htake' : takeRequest s' = some (r', t)) (hdecode : decode r = decode r') : step s = step s' := by
  simp only [step, htake, htake', hdecode]

/-- Settles O10: the two requests decode alike, and both leave the port empty. -/
theorem dataWordIsIgnoredUnlessWrite : Obligations.DataWordIsIgnoredUnlessWrite :=
  fun s who _ d e hkind =>
    step_congr_of_decode (takeRequest_singleton s who _) (takeRequest_singleton s who _)
      (decode_data_irrelevant hkind d e)

/-- Settles O3: no line of rule R87's list is a well-formed request, so the decoder refuses each of them. -/
theorem illegalRequestRespondsAndChangesNothing : Obligations.IllegalRequestRespondsAndChangesNothing := by
  intro s t r htake hlisted
  rcases decodesIffLegal r with ⟨hlegal, _⟩ | ⟨_, e, herr⟩
  · obtain ⟨hrsv, hkind, hlevel, haddress, hindex, harg⟩ := (wellFormed_iff r).1 hlegal
    rcases hlisted with h | h | ⟨hk, hl | ha⟩ | ⟨hk, ha⟩ | ⟨hk, ha⟩ | ⟨hk, hl | ha⟩ | ⟨hk, hl | ha⟩
    · exact absurd hrsv h
    · exact absurd h hkind
    · rcases hlevel hl with hedge | hedge <;> simp [hedge] at hk
    · exact absurd ha (haddress hk).not_gt
    · exact absurd ha (hindex (.inl hk)).not_ge
    · exact absurd (harg (.inl hk)) ha
    · rcases hlevel hl with hedge | hedge <;> simp [hedge] at hk
    · exact absurd ha (hindex (.inr hk)).not_ge
    · rcases hlevel hl with hedge | hedge <;> simp [hedge] at hk
    · exact absurd (harg (.inr hk)) ha
  · rw [step_of_decode_error htake herr, takeRequest_state htake]

end Sys2Proof.Machine
end

section
/-! PROOFS of the family 40_timer_fitter. The search of `fit` is compared with the spec's rational arithmetic divisor
by divisor (O51, O52, O56); the derivation is said once for each outcome of `fit` (O53, O54, O55). For O57, a
non-negative pattern is a number of last places at an exponent (`unitsOf_of_toNat`), `f32` rounds to the nearest
number of places (`roundHalfEven_roundsTo`), and no pattern of another exponent is nearer (`isNearest_of_roundsTo`). -/

namespace Sys2Proof.Machine

/-! ### The fitter against exact arithmetic (rules R120 to R123) -/

theorem unitsOf_pos {f : Word} (h : 0 < exactVal f) : 0 < unitsOf f := by
  rw [exactVal_of_nonneg (signOf_of_pos h)] at h
  by_contra hzero
  simp [Nat.eq_zero_of_not_pos hzero] at h

theorem divisorFits_iff {clock : ℕ} {f : Word} (hf : 0 < exactVal f) (k : Fin 7) :
    DivisorFits clock (unitsOf f) k ↔ CountFits (exactCount clock (exactVal f) k) := by
  unfold DivisorFits CountFits
  rw [← countAt_eq clock f hf k]
  omega

/-- The fit that divisor number k gives is the one with its code and its exact count. -/
theorem eq_fitAt_iff {c : ℕ} (hc : c ≤ 65535) (k : Fin 7) (r : Fit) :
    r = ⟨BitVec.ofNat 3 (k.val + 1), BitVec.ofNat 16 c⟩ ↔ r.psc.toNat = k.val + 1 ∧ r.ct.toNat = c := by
  obtain ⟨psc, ct⟩ := r
  have hk := k.isLt
  simp only [Fit.mk.injEq, ← BitVec.toNat_inj, BitVec.toNat_ofNat]
  rw [Nat.mod_eq_of_lt (by omega), Nat.mod_eq_of_lt (by omega)]

/-- Settles O51: `fit_eq_some_iff`, with each count replaced by the exact one. -/
theorem fitIsTheFirstDivisorThatFits : Obligations.FitIsTheFirstDivisorThatFits := by
  intro clock f r _ _ hf
  rw [fit_eq_some_iff]
  refine exists_congr fun k => ?_
  simp only [divisorFits_iff hf, ← countAt_eq clock f hf, Nat.cast_inj]
  exact and_congr_right fun ⟨_, hmax⟩ => and_congr_right fun _ => eq_fitAt_iff (by exact_mod_cast hmax) k r

theorem nthDivisor_mono : Monotone nthDivisor := by unfold Monotone; decide

/-- A larger divisor does not count further. -/
theorem countAt_antitone {clock u : ℕ} (hu : 0 < u) {j k : Fin 7} (h : j ≤ k) :
    countAt clock u (nthDivisor k) ≤ countAt clock u (nthDivisor j) := by
  have hmul : nthDivisor j * u ≤ nthDivisor k * u := Nat.mul_le_mul_right u (nthDivisor_mono h)
  have hself := (le_roundHalfUp_iff (Nat.mul_pos (nthDivisor_pos k) hu)).1
    (le_refl (countAt clock u (nthDivisor k)))
  rw [countAt, countAt, le_roundHalfUp_iff (Nat.mul_pos (nthDivisor_pos j) hu), ← countAt]
  rcases Nat.eq_zero_or_pos (countAt clock u (nthDivisor k)) with hzero | hpos
  · simp [hzero]
  · nlinarith

/-- Past a divisor whose count is too large the next one, at most 8 times as large, does not count to 0. -/
theorem countAt_succ_pos {clock u : ℕ} (hu : 0 < u) (k : Fin 6)
    (large : 65535 < countAt clock u (nthDivisor k.castSucc)) : 0 < countAt clock u (nthDivisor k.succ) := by
  have hmul : nthDivisor k.succ * u ≤ 8 * (nthDivisor k.castSucc * u) := by
    calc nthDivisor k.succ * u ≤ 8 * nthDivisor k.castSucc * u := Nat.mul_le_mul_right u (nthDivisor_succ_le k)
      _ = 8 * (nthDivisor k.castSucc * u) := Nat.mul_assoc ..
  rw [countAt, ← Nat.succ_le_iff, le_roundHalfUp_iff (Nat.mul_pos (nthDivisor_pos _) hu)] at large ⊢
  omega

/-- Where no divisor fits and the first one counts too far, all of them do (rule R123). -/
theorem countAt_large_of_infeasible {clock u : ℕ} (hu : 0 < u) (unfit : ∀ k, ¬ DivisorFits clock u k)
    (first : 0 < countAt clock u (nthDivisor 0)) (k : Fin 7) : 65535 < countAt clock u (nthDivisor k) := by
  unfold DivisorFits at unfit
  induction k using Fin.induction with
  | zero => have := unfit 0; omega
  | succ k ih => have := unfit k.succ; have := countAt_succ_pos hu k ih; omega

/-- Settles O52: the count of the first divisor decides which of the two cases an infeasible fit is. -/
theorem fitFailsOnlyTooLowOrTooHigh : Obligations.FitFailsOnlyTooLowOrTooHigh := by
  intro clock f _ _ hf
  simp only [fit_eq_none_iff, ← countAt_eq clock f hf]
  norm_cast
  constructor
  · intro unfit
    rcases Nat.eq_zero_or_pos (countAt clock (unitsOf f) (nthDivisor 0)) with hzero | hpos
    · exact .inr fun k => Nat.eq_zero_of_le_zero (hzero ▸ countAt_antitone (unitsOf_pos hf) (Fin.zero_le k))
    · exact .inl (countAt_large_of_infeasible (unitsOf_pos hf) unfit hpos)
  · rintro (large | zero) k ⟨hmin, hmax⟩
    · exact absurd hmax (large k).not_ge
    · exact absurd (zero k) (by omega)

/-! ### The derivation (rules R124 to R128) -/

theorem derive_of_fit_none {clock : ℕ} {f d : Word} (h : fit clock (unitsOf f) = none) :
    derive clock f d = Derived.silent := by
  rw [derive, h]; rfl

theorem derive_of_degenerate {clock : ℕ} {f d : Word} {r : Fit} (h : fit clock (unitsOf f) = some r)
    (hdc : dutyCompare (unitsOf d) r.ct.toNat = 0 ∨ r.ct.toNat ≤ dutyCompare (unitsOf d) r.ct.toNat) :
    derive clock f d = Derived.silent := by
  rw [derive, h]; exact if_pos hdc

theorem derive_of_valid {clock : ℕ} {f d : Word} {r : Fit} (h : fit clock (unitsOf f) = some r)
    (hdc : ¬ (dutyCompare (unitsOf d) r.ct.toNat = 0 ∨ r.ct.toNat ≤ dutyCompare (unitsOf d) r.ct.toNat)) :
    derive clock f d = Derived.ofFit clock r (dutyCompare (unitsOf d) r.ct.toNat) := by
  rw [derive, h]; exact if_neg hdc

/-- Settles O53: the exact duty compare is the model's, which decides between the two outcomes. -/
theorem derivationFollowsExactArithmetic : Obligations.DerivationFollowsExactArithmetic := by
  intro clock f d _ _ hd
  refine ⟨derive_of_fit_none, fun r hfit => ?_⟩
  simp only [← dutyCompare_eq hd, Nat.cast_le, Nat.cast_eq_zero]
  exact ⟨derive_of_degenerate hfit, fun hdc => ⟨_, rfl, derive_of_valid hfit hdc⟩⟩

/-- Settles O54: a legal frequency has a fit, whose count is far above 0. -/
theorem legalFrequencyAlwaysFits : Obligations.LegalFrequencyAlwaysFits := by
  refine ⟨fun _ _ _ => derive_of_fit_none, fun f hf => ?_⟩
  obtain ⟨r, hfit, _, hct⟩ := fit_legal hf
  exact ⟨r, hfit, by omega⟩

/-- Settles O55: what O60 already needed of a legal configuration. -/
theorem legalConfigurationIsNeverDegenerate : Obligations.LegalConfigurationIsNeverDegenerate :=
  fun _ _ hf hd => derive_legal hf hd

/-! ### The divisor bands (rule R129) -/

theorem exactVal_pos_of_legalFreq {f : Word} (hf : legalFreq f = true) : 0 < exactVal f := by
  obtain ⟨low, _⟩ := legalFreq_units hf
  have hsign : signOf f = false := by
    simp only [legalFreq, Bool.and_eq_true, Bool.not_eq_true'] at hf
    obtain ⟨⟨⟨_, hsign⟩, _⟩, _⟩ := hf
    exact hsign
  have hu : 0 < unitsOf f := by omega
  rw [exactVal_of_nonneg hsign]
  positivity

/-- A count is within 16 bits exactly above the band edge: `round(x) <= 65535` means `x < 65535.5`. -/
theorem exactCount_le_iff {clock : ℕ} {f : ℚ} (hf : 0 < f) (k : Fin 7) :
    exactCount clock f k ≤ 65535 ↔ bandEdge clock k < f := by
  have hd : (0 : ℚ) < nthDivisor k := by exact_mod_cast nthDivisor_pos k
  rw [exactCount, exactRound, ← Int.lt_add_one_iff, Int.floor_lt, bandEdge, div_lt_iff₀ (by positivity),
    ← lt_sub_iff_add_lt, div_lt_iff₀ (by positivity)]
  push_cast
  ring_nf

/-- At 32 MHz no divisor counts a legal frequency to 0. -/
theorem countAt_legal_pos {f : Word} (hf : legalFreq f = true) (k : Fin 7) :
    1 ≤ countAt 32000000 (unitsOf f) (nthDivisor k) := by
  obtain ⟨low, high⟩ := legalFreq_units hf
  have hlargest : nthDivisor k ≤ 1024 := by revert k; decide
  have hmul : nthDivisor k * unitsOf f ≤ 1024 * unitsOf f := Nat.mul_le_mul_right _ hlargest
  rw [countAt, le_roundHalfUp_iff (Nat.mul_pos (nthDivisor_pos k) (by omega))]
  omega

/-- At 32 MHz a divisor fits a legal frequency exactly above its band edge. -/
theorem divisorFits_legal_iff {f : Word} (hf : legalFreq f = true) (k : Fin 7) :
    DivisorFits 32000000 (unitsOf f) k ↔ bandEdge 32000000 k < exactVal f := by
  have hpos := exactVal_pos_of_legalFreq hf
  have hcount := countAt_eq 32000000 f hpos k
  rw [← exactCount_le_iff hpos, ← hcount, DivisorFits, and_iff_right (countAt_legal_pos hf k)]
  omega

theorem bandEdge_antitone (clock : ℕ) : Antitone (bandEdge clock) := fun j k h => by
  have hpos : (0 : ℚ) < nthDivisor j := by exact_mod_cast nthDivisor_pos j
  have hle : (nthDivisor j : ℚ) ≤ nthDivisor k := by exact_mod_cast nthDivisor_mono h
  unfold bandEdge
  gcongr

/-- The fit is on divisor number k exactly when k is the first divisor that fits. -/
theorem exists_fit_psc_iff {clock u : ℕ} (k : Fin 7) :
    (∃ r, fit clock u = some r ∧ r.psc.toNat = k.val + 1) ↔
      DivisorFits clock u k ∧ ∀ j < k, ¬ DivisorFits clock u j := by
  have hcode : ∀ j : Fin 7, (BitVec.ofNat 3 (j.val + 1)).toNat = j.val + 1 := by decide
  constructor
  · rintro ⟨r, hfit, hpsc⟩
    obtain ⟨j, hfits, search, rfl⟩ := fit_eq_some_iff.1 hfit
    obtain rfl : j = k := Fin.ext (by simpa [hcode] using hpsc)
    exact ⟨hfits, search⟩
  · rintro ⟨hfits, search⟩
    exact ⟨_, fit_eq_some_iff.2 ⟨k, hfits, search, rfl⟩, hcode k⟩

/-- Settles O56: divisor number k fits above its edge, and the edges fall, so that the search passes all divisors
before it exactly when the frequency is not above the edge just before. -/
theorem divisorBandsAtThisClock : Obligations.DivisorBandsAtThisClock := by
  intro f k hf
  simp only [exists_fit_psc_iff, divisorFits_legal_iff hf, not_lt]
  refine and_congr_right fun _ => ⟨fun h j hj => h j (by omega), fun h j hj => ?_⟩
  have hprevious := h ⟨k.val - 1, by omega⟩ (Nat.sub_add_cancel (by omega))
  exact hprevious.trans (bandEdge_antitone _ (Fin.le_def.2 (Nat.le_sub_one_of_lt hj)))

/-! ### The patterns of non-negative values (rule R90)

A non-negative pattern holds a number `m` of last places of exponent `e`, at `e * 2^23 + m`. -/

/-- `m` places of exponent `e` are a value of binary32: at most 24 bits, and all 24 of them unless `e` is the
smallest exponent. `m = 2^24`, where a rounding up carries into the exponent, is the value `2^23` at `e + 1`. -/
def Normal (e m : ℕ) : Prop := m ≤ 2 ^ 24 ∧ (e = 0 ∨ 2 ^ 23 ≤ m)

theorem expOf_eq (b : Word) : expOf b = b.toNat / 2 ^ 23 % 2 ^ 8 := by
  simp [expOf, Nat.shiftRight_eq_div_pow]

theorem fracOf_eq (b : Word) : fracOf b = b.toNat % 2 ^ 23 := by
  simp [fracOf]

theorem finitePattern_iff (b : Word) : FinitePattern b ↔ b.toNat / 2 ^ 23 % 2 ^ 8 ≠ 255 := by
  rw [← isFinite32_iff, ← expOf_eq, isFinite32, bne_iff_ne]

theorem signOf_eq_false_iff (b : Word) : signOf b = false ↔ b.toNat < 2 ^ 31 := by
  rw [signOf, ← BitVec.msb_eq_getLsbD_last, BitVec.msb_eq_false_iff_two_mul_lt]
  omega

/-- The value of a non-negative pattern, in units of 2^-149. -/
theorem unitsOf_of_toNat {b : Word} {e m : ℕ} (hb : b.toNat = e * 2 ^ 23 + m) (hpos : signOf b = false)
    (h : Normal e m) : unitsOf b = m * 2 ^ e := by
  rw [signOf_eq_false_iff] at hpos
  obtain ⟨hm, hlow⟩ := h
  rw [unitsOf, expOf_eq, fracOf_eq, hb]
  rcases lt_or_ge m (2 ^ 23) with hsmall | hlarge
  · obtain rfl : e = 0 := by omega
    rw [if_pos (by omega)]
    omega
  rcases lt_or_eq_of_le hm with hlt | rfl
  · have hexp : (e * 2 ^ 23 + m) / 2 ^ 23 % 2 ^ 8 = e + 1 := by omega
    have hfrac : 2 ^ 23 + (e * 2 ^ 23 + m) % 2 ^ 23 = m := by omega
    rw [hexp, hfrac, if_neg (by omega), Nat.add_sub_cancel]
  · have hexp : (e * 2 ^ 23 + 2 ^ 24) / 2 ^ 23 % 2 ^ 8 = e + 2 := by omega
    have hfrac : 2 ^ 23 + (e * 2 ^ 23 + 2 ^ 24) % 2 ^ 23 = 2 ^ 23 := by omega
    rw [hexp, hfrac, if_neg (by omega), show e + 2 - 1 = e + 1 from rfl, pow_succ]
    ring

/-- Every pattern has its places, fewer than 2^24 of them. -/
theorem exists_places (b : Word) : ∃ e m, b.toNat = e * 2 ^ 23 + m ∧ Normal e m ∧ m < 2 ^ 24 := by
  refine ⟨b.toNat / 2 ^ 23 - 1, b.toNat - (b.toNat / 2 ^ 23 - 1) * 2 ^ 23, ?_, ?_, ?_⟩
  · omega
  · unfold Normal; omega
  · omega

/-- One pattern up is one place up. -/
theorem unitsOf_lt_of_succ {b c : Word} (hc : signOf c = false) (h : c.toNat = b.toNat + 1) :
    unitsOf b < unitsOf c := by
  obtain ⟨e, m, hb, hnormal, hm⟩ := exists_places b
  have hsign : signOf b = false := by rw [signOf_eq_false_iff] at hc ⊢; omega
  have hsucc : Normal e (m + 1) := by unfold Normal at hnormal ⊢; omega
  rw [unitsOf_of_toNat hb hsign hnormal, unitsOf_of_toNat (by omega) hc hsucc]
  gcongr
  omega

/-- The non-negative patterns are in the order of their values. -/
theorem unitsOf_lt_of_lt {b c : Word} (hc : signOf c = false) (h : b.toNat < c.toNat) :
    unitsOf b < unitsOf c := by
  have chain : ∀ n, b.toNat + 1 ≤ n → n < 2 ^ 31 → unitsOf b < unitsOf (BitVec.ofNat 32 n) := by
    intro n hn
    induction n, hn using Nat.le_induction with
    | base =>
      intro hlt
      exact unitsOf_lt_of_succ ((signOf_eq_false_iff _).2 (by simp; omega)) (by simp; omega)
    | succ n hn ih =>
      intro hlt
      refine (ih (by omega)).trans (unitsOf_lt_of_succ ((signOf_eq_false_iff _).2 ?_) ?_)
      · simp; omega
      · simp; omega
  simpa using chain c.toNat h ((signOf_eq_false_iff _).1 hc)

theorem eq_of_unitsOf_eq {b c : Word} (hb : signOf b = false) (hc : signOf c = false)
    (h : unitsOf b = unitsOf c) : b = c := by
  rcases lt_trichotomy b.toNat c.toNat with hlt | heq | hgt
  · exact absurd h (unitsOf_lt_of_lt hc hlt).ne
  · exact BitVec.eq_of_toNat_eq heq
  · exact absurd h (unitsOf_lt_of_lt hb hgt).ne'

/-- Against the places of exponent `e`, a non-negative pattern is a whole number of them, or it is below the
normal ones. -/
theorem dvd_or_lt_unitsOf {b : Word} (hb : signOf b = false) (e : ℕ) :
    (∃ k, unitsOf b = k * 2 ^ e) ∨ (e ≠ 0 ∧ unitsOf b < 2 ^ 23 * 2 ^ e) := by
  obtain ⟨e', m, hplaces, hnormal, hm⟩ := exists_places b
  rw [unitsOf_of_toNat hplaces hb hnormal]
  rcases le_or_gt e e' with hle | hlt
  · exact .inl ⟨m * 2 ^ (e' - e), by rw [mul_assoc, ← pow_add, Nat.sub_add_cancel hle]⟩
  · refine .inr ⟨by omega, ?_⟩
    calc m * 2 ^ e' < 2 ^ 24 * 2 ^ e' := by gcongr
      _ = 2 ^ 23 * 2 ^ (e' + 1) := by ring
      _ ≤ 2 ^ 23 * 2 ^ e := by gcongr <;> omega

/-! ### Rounding to the nearest number of places (rule R131) -/

/-- `m` is `y` rounded to the nearest integer, ties to even. -/
def RoundsTo (y : ℚ) (m : ℕ) : Prop := |(m : ℚ) - y| ≤ 1 / 2 ∧ (|(m : ℚ) - y| = 1 / 2 → m % 2 = 0)

theorem roundHalfEven_roundsTo (a : ℕ) {b : ℕ} (hb : 0 < b) : RoundsTo ((a : ℚ) / b) (roundHalfEven a b) := by
  have hb' : (0 : ℚ) < b := by exact_mod_cast hb
  have hdiv : (a : ℚ) / b = (a / b : ℕ) + ((a % b : ℕ) : ℚ) / b := by
    rw [div_eq_iff hb'.ne', add_mul, div_mul_cancel₀ _ hb'.ne']
    exact_mod_cast (Nat.div_add_mod' a b).symm
  have hrest : (0 : ℚ) ≤ ((a % b : ℕ) : ℚ) / b := by positivity
  unfold RoundsTo roundHalfEven
  dsimp only
  rw [hdiv]
  generalize a / b = q at *
  rcases lt_trichotomy (2 * (a % b)) b with hlt | htie | hgt
  · have hlow : ((a % b : ℕ) : ℚ) / b < 1 / 2 := by
      rw [div_lt_div_iff₀ hb' two_pos]; exact_mod_cast (by omega : a % b * 2 < 1 * b)
    rw [if_pos hlt, sub_add_cancel_left, abs_neg, abs_of_nonneg hrest]
    exact ⟨hlow.le, fun h => absurd h hlow.ne⟩
  · have hhalf : ((a % b : ℕ) : ℚ) / b = 1 / 2 := by
      rw [div_eq_div_iff hb'.ne' two_ne_zero]; exact_mod_cast (by omega : a % b * 2 = 1 * b)
    rw [if_neg (by omega), if_neg (by omega), hhalf]
    rcases Nat.mod_two_eq_zero_or_one q with heven | hodd
    · rw [heven]; norm_num [heven]
    · rw [hodd]; norm_num; omega
  · have hhigh : 1 / 2 < ((a % b : ℕ) : ℚ) / b := by
      rw [div_lt_div_iff₀ two_pos hb']; exact_mod_cast (by omega : 1 * b < a % b * 2)
    have hone : ((a % b : ℕ) : ℚ) / b < 1 := by
      rw [div_lt_one hb']; exact_mod_cast Nat.mod_lt a hb
    rw [if_neg (by omega), if_pos hgt, Nat.cast_add, Nat.cast_one, add_sub_add_left_eq_sub,
      abs_of_pos (by linarith)]
    exact ⟨by linarith, fun h => absurd h (by linarith)⟩

theorem RoundsTo.le {y : ℚ} {m k : ℕ} (h : RoundsTo y m) (hy : y < k + 1 / 2) : m ≤ k := by
  obtain ⟨hhalf, _⟩ := h
  obtain ⟨_, hupper⟩ := abs_le.1 hhalf
  have hlt : (m : ℚ) < (k + 1 : ℕ) := by push_cast; linarith
  exact Nat.lt_succ_iff.1 (by exact_mod_cast hlt)

theorem RoundsTo.ge {y : ℚ} {m k : ℕ} (h : RoundsTo y m) (hy : k ≤ y) : k ≤ m := by
  obtain ⟨hhalf, _⟩ := h
  obtain ⟨hlower, _⟩ := abs_le.1 hhalf
  have hlt : (k : ℚ) < (m + 1 : ℕ) := by push_cast; linarith
  exact Nat.lt_succ_iff.1 (by exact_mod_cast hlt)

/-- No integer is nearer, and where another one is as near the result is even. -/
theorem RoundsTo.nearest {y : ℚ} {m k : ℕ} (h : RoundsTo y m) :
    |(m : ℚ) - y| ≤ |(k : ℚ) - y| ∧ (k ≠ m → |(m : ℚ) - y| = |(k : ℚ) - y| → m % 2 = 0) := by
  obtain ⟨hhalf, htie⟩ := h
  rcases eq_or_ne k m with rfl | hne
  · simp
  have hapart : (1 : ℚ) ≤ |(k : ℚ) - m| := by
    exact_mod_cast Int.one_le_abs (sub_ne_zero.2 (Nat.cast_injective.ne hne : (k : ℤ) ≠ m))
  have htriangle : |(k : ℚ) - m| ≤ |(k : ℚ) - y| + |(m : ℚ) - y| := by
    rw [abs_sub_comm (m : ℚ) y]; exact abs_sub_le _ _ _
  exact ⟨by linarith, fun _ heq => htie (by linarith)⟩

/-! ### The result of `f32` (rule R131) -/

/-- Distances of non-negative patterns, counted in places of exponent `e`. -/
theorem abs_exactVal_sub {b : Word} (hb : signOf b = false) (y : ℚ) (e : ℕ) :
    |exactVal b - y * 2 ^ e / 2 ^ 149| = |(unitsOf b : ℚ) / 2 ^ e - y| * (2 ^ e / 2 ^ 149) := by
  have hplace : |(2 : ℚ) ^ e / 2 ^ 149| = 2 ^ e / 2 ^ 149 := abs_of_pos (by positivity)
  rw [exactVal_of_nonneg hb, ← hplace, ← abs_mul]
  congr 1
  field_simp

/-- A finite pattern of the rounded number of places is the nearest one, where the value is a normal one at the
exponent of the places. -/
theorem isNearest_of_roundsTo {y : ℚ} {b : Word} {e m : ℕ} (hb : b.toNat = e * 2 ^ 23 + m)
    (hfinite : b.toNat < 255 * 2 ^ 23) (hround : RoundsTo y m) (hnormal : Normal e m)
    (hy : e = 0 ∨ 2 ^ 23 ≤ y) : IsNearest (y * 2 ^ e / 2 ^ 149) b := by
  have hsign : signOf b = false := (signOf_eq_false_iff b).2 (by omega)
  have hunits := unitsOf_of_toNat hb hsign hnormal
  have hplace : (0 : ℚ) < 2 ^ e / 2 ^ 149 := by positivity
  have hplaces : (unitsOf b : ℚ) / 2 ^ e = m := by rw [hunits]; push_cast; field_simp
  refine ⟨(finitePattern_iff b).2 (by omega), hsign, fun p _ hp => ?_⟩
  rw [abs_exactVal_sub hsign, abs_exactVal_sub hp, mul_le_mul_iff_left₀ hplace,
    mul_left_inj' hplace.ne', hplaces]
  rcases dvd_or_lt_unitsOf hp e with ⟨k, hk⟩ | ⟨he, hbelow⟩
  · obtain ⟨hle, htie⟩ := hround.nearest (k := k)
    have hpk : (unitsOf p : ℚ) / 2 ^ e = k := by rw [hk]; push_cast; field_simp
    rw [hpk]
    refine ⟨hle, fun hne heq => ?_⟩
    have heven : m % 2 = 0 := htie (fun hkm => hne (eq_of_unitsOf_eq hp hsign (by rw [hk, hunits, hkm]))) heq
    rw [BitVec.getLsbD, Nat.testBit_zero, hb]
    simp only [decide_eq_false_iff_not]
    omega
  · have hlow : (2 ^ 23 : ℚ) ≤ y := hy.resolve_left he
    have hlt : (unitsOf p : ℚ) / 2 ^ e < 2 ^ 23 := by
      rw [div_lt_iff₀ (by positivity)]; exact_mod_cast hbelow
    obtain ⟨hle, _⟩ := hround.nearest (k := 2 ^ 23)
    have hfar : |(m : ℚ) - y| < |(unitsOf p : ℚ) / 2 ^ e - y| := by
      calc |(m : ℚ) - y| ≤ |2 ^ 23 - y| := by exact_mod_cast hle
        _ = y - 2 ^ 23 := by rw [abs_sub_comm, abs_of_nonneg (by linarith)]
        _ < y - (unitsOf p : ℚ) / 2 ^ e := by linarith
        _ = |(unitsOf p : ℚ) / 2 ^ e - y| := by rw [abs_sub_comm, abs_of_pos (by linarith)]
    exact ⟨hfar.le, fun _ heq => absurd heq hfar.ne⟩

/-- The exponent of the last place that `f32` chooses puts the value at 2^23 to 2^24 places, or below where the
exponent is the smallest one. -/
theorem places_of_log2 (n : ℕ) {d : ℕ} (hd : 0 < d) {e : ℕ} (he : e = Nat.log2 (n / d) - 23) :
    n < 2 ^ 24 * (d * 2 ^ e) ∧ (e = 0 ∨ 2 ^ 23 * (d * 2 ^ e) ≤ n) := by
  constructor
  · have hlt : n / d < 2 ^ (24 + e) :=
      Nat.lt_log2_self.trans_le (Nat.pow_le_pow_right two_pos (by omega))
    rw [Nat.div_lt_iff_lt_mul hd, pow_add] at hlt
    linarith
  · rcases Nat.eq_zero_or_pos e with hzero | hpos
    · exact .inl hzero
    · have hlog : Nat.log2 (n / d) = 23 + e := by omega
      have hne : n / d ≠ 0 := by intro h; rw [h, Nat.log2_zero] at hlog; omega
      have hle : 2 ^ (23 + e) ≤ n / d := hlog ▸ Nat.log2_self_le hne
      rw [Nat.le_div_iff_mul_le hd, pow_add] at hle
      exact .inr (by linarith)

theorem f32_toNat {n d e m : ℕ} (he : e = Nat.log2 (n * unitsPerOne / d) - 23)
    (hm : m = roundHalfEven (n * unitsPerOne) (d * 2 ^ e)) (hfinite : e * 2 ^ 23 + m < 255 * 2 ^ 23) :
    (f32 n d).toNat = e * 2 ^ 23 + m := by
  rw [f32, ← he, ← hm, plusInfinity, BitVec.toNat_ofNat]
  omega

/-- Below the middle between the largest finite value and 2^128, no rounding reaches the exponent of infinity. -/
theorem roundsTo_finite {y : ℚ} {e m : ℕ} (hround : RoundsTo y m) (hhigh : y < 2 ^ 24)
    (hlow : e = 0 ∨ 2 ^ 23 ≤ y) (hrange : y * 2 ^ e < (2 ^ 24 - 1 / 2) * 2 ^ 253) :
    e * 2 ^ 23 + m < 255 * 2 ^ 23 := by
  rcases lt_trichotomy e 253 with hlt | rfl | hgt
  · have hm : m ≤ 2 ^ 24 := hround.le (by push_cast; linarith)
    omega
  · have hy : y < 2 ^ 24 - 1 / 2 := lt_of_mul_lt_mul_right hrange (by positivity)
    have hm : m ≤ 2 ^ 24 - 1 := hround.le (by push_cast; linarith)
    omega
  · have hy : (2 ^ 23 : ℚ) ≤ y := hlow.resolve_left (by omega)
    have hpow : (2 ^ 254 : ℚ) ≤ 2 ^ e := pow_le_pow_right₀ one_le_two hgt
    have hlarge : (2 ^ 23 * 2 ^ 254 : ℚ) ≤ y * 2 ^ e := mul_le_mul hy hpow (by positivity) (by linarith)
    norm_num at hlarge hrange
    linarith

/-- `f32` rounds to nearest, ties to even, over the whole range of finite results. -/
theorem f32_isNearest {n d : ℕ} (hd : 0 < d) (hrange : (n : ℚ) / d < (2 - 1 / 2 ^ 24) * 2 ^ 127) :
    IsNearest ((n : ℚ) / d) (f32 n d) := by
  obtain ⟨e, he⟩ : ∃ e, e = Nat.log2 (n * unitsPerOne / d) - 23 := ⟨_, rfl⟩
  obtain ⟨m, hm⟩ : ∃ m, m = roundHalfEven (n * unitsPerOne) (d * 2 ^ e) := ⟨_, rfl⟩
  obtain ⟨y, hy⟩ : ∃ y : ℚ, y = (n * unitsPerOne : ℕ) / (d * 2 ^ e : ℕ) := ⟨_, rfl⟩
  have hplace : 0 < d * 2 ^ e := by positivity
  have hplace' : (0 : ℚ) < (d * 2 ^ e : ℕ) := by exact_mod_cast hplace
  have hround : RoundsTo y m := hy ▸ hm ▸ roundHalfEven_roundsTo _ hplace
  have hvalue : (n : ℚ) / d = y * 2 ^ e / 2 ^ 149 := by
    rw [hy, unitsPerOne, Nat.cast_mul, Nat.cast_pow, Nat.cast_ofNat]; push_cast; field_simp
  obtain ⟨hbelow, habove⟩ := places_of_log2 (n * unitsPerOne) hd he
  have hhigh : y < 2 ^ 24 := by
    rw [hy, div_lt_iff₀ hplace']; exact_mod_cast hbelow
  have hlow : e = 0 ∨ 2 ^ 23 ≤ y := habove.imp_right fun h => by
    rw [hy, le_div_iff₀ hplace']; exact_mod_cast h
  have hnormal : Normal e m :=
    ⟨hround.le (by push_cast; linarith), hlow.imp_right fun h => hround.ge (by exact_mod_cast h)⟩
  have hfinite : e * 2 ^ 23 + m < 255 * 2 ^ 23 := by
    refine roundsTo_finite hround hhigh hlow ?_
    rw [hvalue, div_lt_iff₀ (by positivity)] at hrange
    norm_num at hrange ⊢
    linarith
  have hb := f32_toNat he hm hfinite
  rw [hvalue]
  exact isNearest_of_roundsTo hb (hb ▸ hfinite) hround hnormal hlow

/-- A quotient of at most 2^32 is far below the range of infinity. -/
theorem f32_isNearest_of_le {n d : ℕ} (hd : 0 < d) (hn : n ≤ 2 ^ 32) : IsNearest ((n : ℚ) / d) (f32 n d) := by
  refine f32_isNearest hd ?_
  calc (n : ℚ) / d ≤ n := div_le_self (by positivity) (by exact_mod_cast hd)
    _ ≤ 2 ^ 32 := by exact_mod_cast hn
    _ < (2 - 1 / 2 ^ 24) * 2 ^ 127 := by norm_num

/-- The real values of a valid derivation are `f32` of its own timer parameters. -/
theorem derive_real_of_valid {clock : ℕ} {f d : Word} (h : (derive clock f d).valid = true) :
    (derive clock f d).realFreq = f32 clock (divisorOf (derive clock f d).psc * (derive clock f d).ct.toNat) ∧
    (derive clock f d).realDuty = f32 (100 * (derive clock f d).dc.toNat) (derive clock f d).ct.toNat := by
  rcases derive_eq (clock := clock) (f := f) (d := d) with ⟨_, heq⟩ | ⟨r, _, heq⟩
  · rw [heq] at h; cases h
  split at heq
  · rw [heq] at h; cases h
  next hdc =>
    rw [heq]
    have hmod : dutyCompare (unitsOf d) r.ct.toNat % 2 ^ 16 = dutyCompare (unitsOf d) r.ct.toNat :=
      Nat.mod_eq_of_lt (by omega)
    simp only [Derived.ofFit, BitVec.toNat_ofNat, hmod, and_self]

theorem divisorOf_pos {psc : BitVec 3} (h : psc ≠ 0#3) : 0 < divisorOf psc := by revert psc; decide

/-- Settles O57: `f32_isNearest`, and a valid derivation rounds its real values by `f32`. -/
theorem realValuesAreNearestBinary32 : Obligations.RealValuesAreNearestBinary32 := by
  refine ⟨fun n d => f32_isNearest, fun f d hf hd => ?_⟩
  obtain ⟨hvalid, hct, hpsc, _, _⟩ := derive_legal hf hd
  obtain ⟨hfreq, hduty⟩ := derive_real_of_valid hvalid
  rw [hfreq, hduty]
  have hdc := (derive 32000000 f d).dc.isLt
  have hcount : 0 < (derive 32000000 f d).ct.toNat := by omega
  constructor
  · exact_mod_cast f32_isNearest_of_le (n := 32000000) (Nat.mul_pos (divisorOf_pos hpsc) hcount) (by omega)
  · exact_mod_cast f32_isNearest_of_le (n := 100 * (derive 32000000 f d).dc.toNat) hcount (by omega)

end Sys2Proof.Machine
end

section
/-! PROOFS of the family 41_channel_loader. The start and stop primitives are read off `start_eq` and `stop_eq`
(O28, O29). What a request does to RUN is read off `exec_effect`: a channel starts only as a startable channel of a
start batch (O34, O35), and a stop takes the ENABLE bit of a single-shot channel with it (O38). The pulse boundary is
said once for each of its three outcomes (O32, O33), and runs of pulse boundaries are inductions over their number
(O43, O44). -/

namespace Sys2Proof.Machine

/-! ### The start primitive (rules R140 to R142) -/

section
variable {s : State}

theorem startAllowed_eq_false_iff {i : Chan} :
    s.startAllowed i = false ↔ s.confirm.getLsbD i.val = true ∧ s.enable.getLsbD i.val = false := by
  simp [State.startAllowed]

theorem startAllowed_eq_true_iff {i : Chan} :
    s.startAllowed i = true ↔ s.confirm.getLsbD i.val = false ∨ s.enable.getLsbD i.val = true := by
  simp [State.startAllowed]

theorem start_of_running {i : Chan} (hrun : s.run.getLsbD i.val = true) : start i s = (s, false) := by
  rw [start_eq, hrun]
  rfl

theorem start_of_gatedOff {i : Chan} (hgate : s.startAllowed i = false) : start i s = (s, false) := by
  rw [start_eq, hgate, Bool.and_false]
  rfl

theorem start_of_startable {i : Chan} (hrun : s.run.getLsbD i.val = false) (hgate : s.startAllowed i = true) :
    start i s = (started (1#4 <<< i.val) [i] s, true) := by
  rw [start_eq, hrun, hgate]
  rfl

theorem pick_bit {α : Type} (i : Chan) (new old : Quad α) :
    pick (1#4 <<< i.val) new old = old.set i (new.get i) :=
  Quad.ext_get fun j => by
    rw [pick_get, Quad.get_set, getLsbD_bit]
    by_cases hj : j = i
    · simp [hj]
    · simp [hj]

/-- One channel started: its own REM and LT_* are loaded, its timer unit is programmed. -/
theorem started_bit (i : Chan) (s : State) : started (1#4 <<< i.val) [i] s = { s with
    rem := s.rem.set i (s.count.get i)
    latched := s.latched.set i (Latched.ofDerived (s.derived.get i) (s.mode.get i))
    run := s.run ||| 1#4 <<< i.val
    events := s.events ++ [programEvent (s.derived.get i) i] } := by
  rw [started, pick_bit, pick_bit, nextLatched_get]
  rfl

/-- Settles O28: the three branches of `start`. -/
theorem startPrimitiveResult : Obligations.StartPrimitiveResult := by
  intro i s
  refine ⟨start_of_running, fun hconfirm henable => ?_, fun hrun hgate => ?_⟩
  · exact start_of_gatedOff (startAllowed_eq_false_iff.2 ⟨hconfirm, henable⟩)
  · refine ⟨_, start_of_startable hrun (startAllowed_eq_true_iff.2 hgate), started_bit i s, fun j => ?_⟩
    rw [started, getLsbD_mask_or, getLsbD_bit, Bool.or_comm]

/-! ### The stop primitive (rules R143 to R145) -/

theorem stop_of_stopped {i : Chan} (hrun : s.run.getLsbD i.val = false) : stop i s = (s, false) := by
  rw [stop_eq, hrun]
  rfl

theorem stop_of_running {i : Chan} (hrun : s.run.getLsbD i.val = true) :
    stop i s = (halted (1#4 <<< i.val) [i] s, true) := by
  rw [stop_eq, hrun]
  rfl

/-- Settles O29: the two branches of `stop`. -/
theorem stopPrimitiveResult : Obligations.StopPrimitiveResult := by
  intro i s
  refine ⟨stop_of_stopped, fun hrun => ⟨_, stop_of_running hrun, rfl, fun j => ?_, fun j => ?_⟩⟩
  · simp only [halted, getLsbD_mask_and, getLsbD_mask_not, getLsbD_bit, Bool.and_comm]
  · have hown : (decide (j = i) && s.ssd.getLsbD j.val) = (decide (j = i) && s.ssd.getLsbD i.val) := by
      by_cases hj : j = i
      · rw [hj]
      · simp only [hj, decide_false, Bool.false_and]
    simp only [halted, getLsbD_mask_and, getLsbD_mask_not, getLsbD_bit, hown, Bool.and_comm]

/-! ### How a channel comes to run (rules R140, R141, R146, R317) -/

/-- A request makes a stopped channel run only by a batch of starts that finds it startable. -/
theorem exec_starts {i : Instr} {t : State} {j : Chan} (h : exec i s = .next t)
    (hstopped : s.run.getLsbD j.val = false) (hruns : t.run.getLsbD j.val = true) :
    ∃ (latch g : Mask) (visits : List Chan), t = afterStarts g visits { s with startLatch := latch } ∧
      g.getLsbD j.val = true ∧ s.startAllowed j = true ∧ j ∈ visits := by
  cases exec_effect h with
  | starts folds latch m visited =>
    have hstarted : (startable m s).getLsbD j.val = true := by
      simpa only [afterStarts, getLsbD_mask_or, hstopped, Bool.false_or] using hruns
    have hallowed := hstarted
    rw [startable_getLsbD, Bool.and_eq_true] at hallowed
    exact ⟨latch, _, _, rfl, hstarted, hallowed.2, (visited j).2 hstarted⟩
  | kept same => exact absurd (same.run ▸ hruns) (by rw [hstopped]; decide)
  | foldOnly | pulse => exact absurd hruns (ne_true_of_eq_false hstopped)
  | stops | lastPulse =>
    simp only [afterStops, pulsed, getLsbD_mask_and, hstopped, Bool.false_and, Bool.false_eq_true] at hruns
  | powerDown => simp at hruns
  | reset => simp [deriveAll_eq, loadDefaults] at hruns

/-- Settles O34: the batch that starts the channel reloads it from the configuration and programs its timer. -/
theorem everyStartReloadsTheChannel : Obligations.EveryStartReloadsTheChannel := by
  intro i s t j h hstopped hruns
  obtain ⟨latch, g, visits, rfl, hstarted, -, hvisited⟩ := exec_starts h hstopped hruns
  refine ⟨?_, ?_, ?_⟩
  · simp only [afterStarts, pick_get, hstarted, if_true]
  · simp only [afterStarts, pick_get, hstarted, if_true, nextLatched_get, Latched.ofDerived]
  · exact List.mem_append_left _ (List.mem_map_of_mem hvisited)

/-- Settles O35: a channel that a request starts was not gated off. -/
theorem gatedOffChannelNeverStarts : Obligations.GatedOffChannelNeverStarts := by
  intro i s t j h hstopped hconfirm henable
  by_contra hruns
  obtain ⟨_, _, _, _, _, hallowed, _⟩ := exec_starts h hstopped (Bool.eq_true_of_not_eq_false hruns)
  rw [startAllowed_eq_false_iff.2 ⟨hconfirm, henable⟩] at hallowed
  cases hallowed

/-! ### Single-shot stops (rules R27, R144) -/

/-- From `s` to `t`, ENABLE lost exactly the bits of the single-shot channels that went from running to stopped. -/
def StopsClearEnable (s t : State) : Prop :=
  ∀ j : Chan, t.enable.getLsbD j.val = (s.enable.getLsbD j.val &&
    !(s.run.getLsbD j.val && !t.run.getLsbD j.val && s.ssd.getLsbD j.val))

theorem stopsClearEnable_afterStarts (g : Mask) (visits : List Chan) (s : State) :
    StopsClearEnable s (afterStarts g visits s) := fun j => by
  rw [afterStarts, getLsbD_mask_or]
  cases s.run.getLsbD j.val <;> simp

theorem stopsClearEnable_afterStops {g : Mask} (visits : List Chan)
    (running : ∀ j : Chan, g.getLsbD j.val = true → s.run.getLsbD j.val = true) :
    StopsClearEnable s (afterStops g visits s) := fun j => by
  simp only [afterStops, getLsbD_mask_and, getLsbD_mask_not]
  cases hg : g.getLsbD j.val with
  | true =>
    rw [running j hg]
    simp
  | false => simp

theorem stopsClearEnable_of_kept {t : State} (henable : t.enable = s.enable) (hrun : t.run = s.run) :
    StopsClearEnable s t := fun j => by
  simp [henable, hrun]

theorem StopsClearEnable.of_next {t u : State} {o : Host.Outcome State Fault Refusal} (hserved : o = .next u)
    (hu : StopsClearEnable s u) (h : o = .next t) : StopsClearEnable s t := by
  rw [hserved] at h
  cases h
  exact hu

theorem running_of_masked {m : Mask} (j : Chan) (h : (m &&& s.run).getLsbD j.val = true) :
    s.run.getLsbD j.val = true := by
  rw [getLsbD_mask_and, Bool.and_eq_true] at h
  exact h.2

theorem execEdge_stopsClearEnable {k : Src} {lvl : Bool} {t : State} (h : execEdge k lvl s = .next t) :
    StopsClearEnable s t := by
  cases hactive : activeEdge lvl (s.tpol.get k) with
  | true => exact .of_next (execEdge_start hactive) (stopsClearEnable_afterStarts _ _ _) h
  | false =>
    cases hact : s.tact.get k with
    | startAndStop =>
      exact .of_next (execEdge_stop hactive hact) (stopsClearEnable_afterStops _ running_of_masked) h
    | startOnly => exact .of_next (execEdge_ignored hactive hact) (stopsClearEnable_of_kept rfl rfl) h

/-- In the trigger modes an "all" edge is a batch; the Enable modes write ENABLE themselves (rule R176). -/
theorem execEdgeAll_stopsClearEnable {lvl : Bool} {t : State} (hmode : ¬ EnableModeEdge (.edgeAll lvl) s)
    (h : execEdgeAll lvl s = .next t) : StopsClearEnable s t := by
  have htrigger : s.aact = .triggerAll ∨ s.aact = .triggerAllAndStop := by
    cases hact : s.aact with
    | triggerAll => exact .inl rfl
    | triggerAllAndStop => exact .inr rfl
    | enable => exact absurd ⟨⟨lvl, rfl⟩, .inl hact⟩ hmode
    | enableAndStop => exact absurd ⟨⟨lvl, rfl⟩, .inr hact⟩ hmode
  cases hactive : activeEdge lvl s.apol with
  | true => exact .of_next (execEdgeAll_start hactive htrigger) (stopsClearEnable_afterStarts _ _ _) h
  | false =>
    rcases htrigger with hact | hact
    · exact .of_next (execEdgeAll_ignored hactive (.inl hact)) (stopsClearEnable_of_kept rfl rfl) h
    · exact .of_next (execEdgeAll_stop hactive hact) (stopsClearEnable_afterStops _ running_of_masked) h

theorem execPulse_stopsClearEnable {c : Chan} {t : State} (h : execPulse c s = .next t) :
    StopsClearEnable s t := by
  cases hrun : s.run.getLsbD c.val with
  | false => exact .of_next (execPulse_stopped hrun) (stopsClearEnable_of_kept rfl rfl) h
  | true =>
    by_cases hlast : (s.latched.get c).mode = .count ∧ s.rem.get c - 1#32 = 0#32
    · have hown : ∀ j : Chan, (1#4 <<< c.val).getLsbD j.val = true → (pulsed c s).run.getLsbD j.val = true := by
        intro j hj
        rw [getLsbD_bit, decide_eq_true_iff] at hj
        exact hj ▸ hrun
      exact .of_next (execPulse_last hrun hlast) (stopsClearEnable_afterStops _ hown) h
    · exact .of_next (execPulse_running hrun hlast) (stopsClearEnable_of_kept rfl rfl) h

theorem execWrStart_stopsClearEnable {v : Word} {t : State} (h : execWrStart v s = .next t) :
    StopsClearEnable s t := by
  cases hfits : fitsWidth 4 v with
  | true => exact .of_next (execWrStart_accepted hfits) (stopsClearEnable_afterStarts _ _ _) h
  | false => exact .of_next (serveWrite_rejected hfits) (stopsClearEnable_of_kept rfl rfl) h

theorem execWrStop_stopsClearEnable {v : Word} {t : State} (h : execWrStop v s = .next t) :
    StopsClearEnable s t := by
  cases hfits : fitsWidth 4 v with
  | true =>
    exact .of_next (execWrStop_accepted hfits) (stopsClearEnable_afterStops _ running_of_masked) h
  | false => exact .of_next (serveWrite_rejected hfits) (stopsClearEnable_of_kept rfl rfl) h

/-- A request that folds changes ENABLE by its stops alone, but for the Enable modes of an "all" edge. -/
theorem exec_stopsClearEnable {i : Instr} {t : State} (h : exec i s = .next t) (hfolds : Folds i)
    (hmode : ¬ EnableModeEdge i s) : StopsClearEnable s t := by
  cases i with
  | edge k lvl => exact execEdge_stopsClearEnable h
  | edgeAll lvl => exact execEdgeAll_stopsClearEnable hmode h
  | pulse c => exact execPulse_stopsClearEnable h
  | wrStart v => exact execWrStart_stopsClearEnable h
  | wrStop v => exact execWrStop_stopsClearEnable h
  | _ => exact hfolds.elim

theorem serveWrite_enable {legal : Bool} {f : State → State} {t : State}
    (accepted : (f s.openRequest).enable = s.enable) (h : serveWrite legal s f = .next t) :
    t.enable = s.enable := by
  cases legal with
  | true => cases h; exact accepted
  | false => cases h; rfl

/-- Of the requests that do not fold, only `wr ENABLE` and RESET write ENABLE (rules R209, R300). -/
theorem exec_enable_of_not_folds {i : Instr} {t : State} (h : exec i s = .next t) (hfolds : ¬ Folds i)
    (hwrite : ∀ v, i ≠ .wrEnable v) (hreset : i ≠ .reset) : t.enable = s.enable := by
  cases i with dsimp only [exec] at h
  | edge | edgeAll | pulse | wrStart | wrStop => exact absurd trivial hfolds
  | wrEnable v => exact absurd rfl (hwrite v)
  | reset => exact absurd rfl hreset
  | powerDown =>
    cases (execPowerDown_eq s).symm.trans h
    rfl
  | wrFreq | wrDuty | wrCount | wrMode | wrTrigMask | wrTrigMode | wrAllMode | wrConfirm | wrSingleShot
  | wrEvtEn | wrRealFreq | wrRealDuty | wrTrigState | wrRunState | wrExecState => exact serveWrite_enable rfl h
  | rdFreq | rdDuty | rdCount | rdMode | rdRealFreq | rdRealDuty | rdTrigMask | rdTrigMode | rdAllMode | rdStart
  | rdStop | rdEnable | rdConfirm | rdSingleShot | rdTrigState | rdRunState | rdExecState | rdEvtEn =>
    cases h; rfl

theorem Folds.not_lifecycle {i : Instr} (hfolds : Folds i) : i ≠ .powerDown ∧ i ≠ .reset := by
  constructor <;> rintro rfl <;> exact hfolds

/-- Settles O38: a folding request stops by the stop primitive; POWER_DOWN stops without it; no other request of
the statement touches RUN or ENABLE. -/
theorem singleShotStopClearsEnable : Obligations.SingleShotStopClearsEnable := by
  intro i s t j h hwrite hmode hreset
  by_cases hfolds : Folds i
  · simpa [hfolds.not_lifecycle.1] using exec_stopsClearEnable h hfolds hmode j
  · have henable := exec_enable_of_not_folds h hfolds hwrite hreset
    by_cases hpower : i = .powerDown
    · simp [henable, hpower]
    · obtain ⟨hrun, -⟩ := onlyBatchesAndLifecycleTouchExecution i s t h hfolds hpower hreset
      simp [henable, hrun]

/-! ### When a request notifies (rules R150, R273) -/

theorem notify_mem_notifyFor {run' : Mask} :
    .notify 0x28#8 ∈ notifyFor run' s ↔ run' ≠ s.execState ∧ s.evtEn = true := by
  unfold notifyFor
  split <;> simp_all

theorem notify_notMem_map {f : Chan → Event} (timer : ∀ i, (f i).isNotify = false) (visits : List Chan) (a : Addr) :
    .notify a ∉ visits.map f := by
  intro hmem
  obtain ⟨i, -, hi⟩ := List.mem_map.1 hmem
  have htimer := timer i
  rw [hi] at htimer
  cases htimer

/-- The events of a folding request notify exactly when its fold does. -/
theorem notify_mem_map_notifyFor {f : Chan → Event} (timer : ∀ i, (f i).isNotify = false) (visits : List Chan)
    {run' : Mask} {i : Instr} (hfolds : Folds i) :
    .notify 0x28#8 ∈ visits.map f ++ notifyFor run' s ↔
      run' ≠ s.execState ∧ s.evtEn = true ∧ i ≠ .powerDown ∧ i ≠ .reset := by
  rw [List.mem_append, or_iff_right (notify_notMem_map timer visits _), notify_mem_notifyFor,
    and_iff_left hfolds.not_lifecycle]

/-- Settles O40: NOTIFY comes from the fold alone, and POWER_DOWN and RESET do not fold. -/
theorem notifyExactlyWhenExecChanges : Obligations.NotifyExactlyWhenExecChanges := by
  intro i s t h
  cases exec_effect h with
  | kept same => simp [same.events, same.execState]
  | starts folds => exact notify_mem_map_notifyFor (fun i => programEvent_isNotify _ i) _ folds
  | stops folds => exact notify_mem_map_notifyFor tmrHalt_isNotify _ folds
  | foldOnly folds => exact notify_mem_map_notifyFor tmrHalt_isNotify [] folds
  | pulse => exact notify_mem_map_notifyFor tmrHalt_isNotify [] trivial
  | lastPulse => exact notify_mem_map_notifyFor tmrHalt_isNotify _ trivial
  | powerDown | reset => simp [notify_notMem_map tmrHalt_isNotify]

/-! ### One pulse boundary (rules R160 to R163) -/

/-- A request other than a write decodes alike with every data word. -/
theorem decode_encode_hdr {i : Instr} (hkind : kindOf (encode i).hdr ≠ 0#3) (d : Word) :
    decode ⟨(encode i).hdr, d⟩ = .ok i :=
  (decode_data_irrelevant hkind d (encode i).data).trans (decodeOfEncodeIsTheInstruction i)

theorem encode_pulse_hdr (i : Chan) : (encode (.pulse i)).hdr = BitVec.ofNat 16 (0x8000 + i.val) := by
  revert i; decide

/-- Counting down modulo 2^32 (rule R163). -/
theorem sub_ofNat_eq_ofInt (x : Word) (n : ℕ) : x - BitVec.ofNat 32 n = BitVec.ofInt 32 ((x.toNat : ℤ) - n) := by
  have hsum : BitVec.ofInt 32 ((x.toNat : ℤ) - n) + BitVec.ofNat 32 n = x := by
    rw [← BitVec.ofInt_natCast, ← BitVec.ofInt_add, Int.sub_add_cancel, BitVec.ofInt_natCast, BitVec.ofNat_toNat,
      BitVec.setWidth_eq]
  exact sub_eq_iff_eq_add.2 hsum.symm

theorem sub_one_eq_zero_iff {x : Word} : x - 1#32 = 0#32 ↔ x = 1#32 := by bv_omega

/-- What keeps a channel running through a pulse boundary: the latched mode Infinite, or a REM that does not reach
0 (rules R146, R160). -/
theorem not_lastPulse {i : Chan} (hleft : (s.latched.get i).mode = .infinite ∨ s.rem.get i ≠ 1#32) :
    ¬ ((s.latched.get i).mode = .count ∧ s.rem.get i - 1#32 = 0#32) := by
  rintro ⟨hmode, hzero⟩
  rcases hleft with hinfinite | hrem
  · rw [hmode] at hinfinite
    cases hinfinite
  · exact hrem (sub_one_eq_zero_iff.1 hzero)

/-- Settles O32: the three outcomes of `pulse`. -/
theorem pulseResult : Obligations.PulseResult := by
  intro i d s
  refine ⟨?_, fun hrun hmode hrem => ?_, fun hrun hleft => ?_, execPulse_stopped⟩
  · rw [← encode_pulse_hdr]
    exact decode_encode_hdr (by simp [encode]) d
  · have hzero : s.rem.get i - 1#32 = 0#32 := sub_one_eq_zero_iff.2 hrem
    exact (execPulse_last hrun ⟨hmode, hzero⟩).trans (by rw [pulsed, hzero])
  · exact (execPulse_running hrun (not_lastPulse hleft)).trans (by rw [pulsed, sub_ofNat_eq_ofInt, Nat.cast_one])

theorem afterFoldOnly_of_execIsRun (hs : s.execState = s.run) : afterFoldOnly s = answered true 0#32 s := by
  have hsilent : notifyFor s.run s = [] := if_neg fun h => h.1 hs.symm
  simp only [afterFoldOnly, hsilent, answered, hs]

/-- Settles O33: both requests only fold, and between requests EXEC = RUN, so the fold changes nothing. -/
theorem ignoredEventsChangeNothing : Obligations.IgnoredEventsChangeNothing := by
  intro s hs
  rw [← afterFoldOnly_of_execIsRun hs]
  exact ⟨fun i => execPulse_stopped, fun k lvl hact hlvl => execEdge_ignored (by simp [activeEdge, hlvl]) hact⟩

/-! ### Runs of pulse boundaries (rules R162, R163) -/

theorem afterPulses_succ {i : Chan} {t : State} (h : execPulse i s = .next t) (n : ℕ) :
    afterPulses i (n + 1) s = afterPulses i n t := by
  have hexec : exec (.pulse i) s = .next t := h
  simp only [afterPulses, hexec]

theorem afterPulses_add (i : Chan) (m n : ℕ) (s : State) :
    afterPulses i (m + n) s = afterPulses i n (afterPulses i m s) := by
  induction m generalizing s with
  | zero => rw [Nat.zero_add, afterPulses]
  | succ m ih =>
    obtain ⟨t, ht⟩ := exec_next (.pulse i) s
    rw [Nat.add_right_comm, afterPulses_succ ht, afterPulses_succ ht, ih]

/-- Every pulse boundary folds, so EXEC = RUN stays. -/
theorem afterPulses_execIsRun (i : Chan) (n : ℕ) (hs : s.execState = s.run) :
    (afterPulses i n s).execState = (afterPulses i n s).run := by
  induction n generalizing s with
  | zero => exact hs
  | succ n ih =>
    obtain ⟨t, ht⟩ := exec_next (.pulse i) s
    rw [afterPulses_succ ht]
    apply ih
    cases exec_effect ht with
    | kept same => rw [same.execState, same.run, hs]
    | _ => rfl

/-- A stopped channel stays stopped under its own pulse boundaries (rule R161). -/
theorem afterPulses_stopped {i : Chan} (n : ℕ) (hrun : s.run.getLsbD i.val = false) :
    (afterPulses i n s).run.getLsbD i.val = false := by
  induction n generalizing s with
  | zero => exact hrun
  | succ n ih =>
    rw [afterPulses_succ (execPulse_stopped hrun)]
    exact ih hrun

/-- An Infinite channel runs through any number of pulse boundaries, a Count channel through fewer than it has pulses
left; each boundary takes one from REM modulo 2^32. -/
theorem afterPulses_running {i : Chan} {n : ℕ} (hrun : s.run.getLsbD i.val = true)
    (hleft : (s.latched.get i).mode = .infinite ∨ n < (s.rem.get i).toNat) :
    (afterPulses i n s).run.getLsbD i.val = true ∧
      (afterPulses i n s).latched.get i = s.latched.get i ∧
      (afterPulses i n s).rem.get i = s.rem.get i - BitVec.ofNat 32 n := by
  induction n generalizing s with
  | zero => exact ⟨hrun, rfl, (BitVec.sub_zero _).symm⟩
  | succ n ih =>
    have hkeeps := not_lastPulse (hleft.imp_right fun hn (hone : s.rem.get i = 1#32) => by simp [hone] at hn)
    have hrem : (afterFoldOnly (pulsed i s)).rem.get i = s.rem.get i - 1#32 := Quad.get_set_same ..
    have hleft' : (s.latched.get i).mode = .infinite ∨ n < ((afterFoldOnly (pulsed i s)).rem.get i).toNat := by
      rw [hrem]
      exact hleft.imp_right fun hn => by bv_omega
    obtain ⟨hrun', hlatched', hrem'⟩ := ih (s := afterFoldOnly (pulsed i s)) hrun hleft'
    rw [afterPulses_succ (execPulse_running hrun hkeeps)]
    refine ⟨hrun', hlatched', ?_⟩
    rw [hrem', hrem, BitVec.ofNat_add]
    ring

/-- The boundary that takes the last pulse of a Count channel stops it. -/
theorem afterPulses_last {i : Chan} (n : ℕ) (hrun : s.run.getLsbD i.val = true)
    (hmode : (s.latched.get i).mode = .count) (hrem : s.rem.get i = 1#32) :
    (afterPulses i (n + 1) s).run.getLsbD i.val = false := by
  rw [afterPulses_succ (execPulse_last hrun ⟨hmode, sub_one_eq_zero_iff.2 hrem⟩)]
  refine afterPulses_stopped n ?_
  simp [afterStops]

/-- Settles O43: N - 1 boundaries leave one pulse, and the next takes it. -/
theorem countRunStopsAtExactlyNPulses : Obligations.CountRunStopsAtExactlyNPulses := by
  intro i s n hs hrun hmode hrem hn
  obtain ⟨before, rfl⟩ := Nat.exists_eq_add_of_le' hn
  refine ⟨fun m hm => ?_, fun m hm => ?_⟩
  · obtain ⟨hruns, -, hleft⟩ := afterPulses_running hrun (.inr (hrem ▸ hm))
    rw [afterPulses_execIsRun i m hs, hleft]
    exact ⟨hruns, by bv_omega⟩
  · obtain ⟨later, rfl⟩ := Nat.exists_eq_add_of_le hm
    obtain ⟨hruns, hlatched, hleft⟩ := afterPulses_running (n := before) hrun (.inr (by omega))
    have hone : (afterPulses i before s).rem.get i = 1#32 := by
      rw [hleft]
      bv_omega
    rw [afterPulses_execIsRun i _ hs, Nat.add_assoc, Nat.add_comm 1, afterPulses_add]
    exact afterPulses_last later hruns (hlatched ▸ hmode) hone

/-- Settles O44: no boundary ends an Infinite run, and n of them take n from REM modulo 2^32. -/
theorem infiniteRunNeverStopsItself : Obligations.InfiniteRunNeverStopsItself := by
  intro i s n hs hrun hmode
  obtain ⟨hruns, -, hleft⟩ := afterPulses_running (n := n) hrun (.inl hmode)
  rw [afterPulses_execIsRun i n hs, hleft, sub_ofNat_eq_ofInt]
  exact ⟨hruns, rfl⟩

end

end Sys2Proof.Machine
end

section
/-! PROOFS of the family 42_trigger_router. The closed forms of the edge requests, branch by branch, are O30 and O31;
O46 and O47 read RUN, ENABLE and the events off them. For the commands (O19) each channel that is visited is visited
once, so one of a request's timer events names it. -/

namespace Sys2Proof.Machine

section
variable {s : State}

/-! ### Edge requests (rules R170, R171, R175 to R177) -/

/-- A request has one outcome. -/
theorem next_unique {o : Host.Outcome State Fault Refusal} {t u : State} (hserved : o = .next u) (h : o = .next t) :
    u = t :=
  Host.Outcome.next.inj (hserved.symm.trans h)

theorem activeEdge_of_ne {lvl pol : Bool} (h : lvl ≠ pol) : activeEdge lvl pol = true :=
  (Bool.xor_iff_ne ..).2 h

theorem activeEdge_of_eq {lvl pol : Bool} (h : lvl = pol) : activeEdge lvl pol = false := by
  rw [h, activeEdge, Bool.xor_self]

theorem encode_edge_hdr (k : Src) (lvl : Bool) :
    (encode (.edge k lvl)).hdr = BitVec.ofNat 16 (0x4000 + (if lvl then 0x100 else 0) + k.val) := by
  revert k lvl; decide

theorem encode_edgeAll_hdr (lvl : Bool) :
    (encode (.edgeAll lvl)).hdr = BitVec.ofNat 16 (0x6000 + (if lvl then 0x100 else 0)) := by
  revert lvl; decide

/-- Settles O30: the three branches of a discrete edge. -/
theorem edgeResult : Obligations.EdgeResult := by
  intro k lvl d s
  refine ⟨?_, fun hactive => execEdge_start (activeEdge_of_ne hactive),
    fun hopposite => execEdge_stop (activeEdge_of_eq hopposite),
    fun hopposite => execEdge_ignored (activeEdge_of_eq hopposite)⟩
  rw [← encode_edge_hdr]
  exact decode_encode_hdr (by simp [encode]) d

/-- Settles O31: the modes of the "all" source, for the active edge and for the opposite one. -/
theorem edgeAllResult : Obligations.EdgeAllResult := by
  intro lvl d s
  refine ⟨?_, fun hactive => execEdgeAll_start (activeEdge_of_ne hactive), fun hopposite hact => ?_,
    fun hactive => execEdgeAll_enable (activeEdge_of_ne hactive),
    fun hopposite => execEdgeAll_disable (activeEdge_of_eq hopposite),
    fun hopposite => execEdgeAll_ignored (activeEdge_of_eq hopposite)⟩
  · rw [← encode_edgeAll_hdr]
    exact decode_encode_hdr (by simp [encode]) d
  · have hall : 0xF#4 &&& s.run = s.run := BitVec.allOnes_and
    have hstop := execEdgeAll_stop (activeEdge_of_eq hopposite) hact
    rwa [hall] at hstop

/-! ### Enable mode and TriggerAll mode (rules R181, R182) -/

/-- With every ENABLE bit set no channel is gated off, so a batch of starts leaves all its channels running. -/
theorem run_or_startable_of_enabled (henable : s.enable = 0xF#4) (m : Mask) :
    s.run ||| startable m s = s.run ||| m :=
  mask_ext fun i => by
    have hallowed : s.startAllowed i = true := startAllowed_eq_true_iff.2 (.inr (by rw [henable, getLsbD_mask_full]))
    rw [getLsbD_mask_or, getLsbD_mask_or, startable_getLsbD, hallowed]
    cases s.run.getLsbD i.val <;> simp

/-- Between requests EXEC = RUN, so in the Enable modes an active "all" edge writes ENABLE and nothing else. -/
theorem execEdgeAll_enable_answered {lvl : Bool} (hexec : s.execState = s.run)
    (hactive : activeEdge lvl s.apol = true) (hact : s.aact = .enable ∨ s.aact = .enableAndStop) :
    execEdgeAll lvl s = .next (answered true 0#32 { s with enable := 0xF#4 }) := by
  rw [execEdgeAll_enable hactive hact, afterFoldOnly_of_execIsRun (by exact hexec)]

/-- With every ENABLE bit set, an active discrete edge leaves every masked channel running. -/
theorem edge_run_of_enabled {k : Src} {lvl : Bool} {t : State} (h : exec (.edge k lvl) s = .next t)
    (hactive : lvl ≠ s.tpol.get k) (henable : s.enable = 0xF#4) : t.run = s.run ||| s.tmask.get k := by
  obtain rfl := next_unique (execEdge_start (activeEdge_of_ne hactive)) h
  exact run_or_startable_of_enabled henable _

/-- Settles O46: after the "all" edge every ENABLE bit is set, so the discrete edge finds no channel gated off. -/
theorem enableEdgeThenDiscreteStart : Obligations.EnableEdgeThenDiscreteStart := by
  intro lvl lvl' k s t u hexec hact hactive hactive' ht hu
  obtain rfl := next_unique (execEdgeAll_enable_answered hexec (activeEdge_of_ne hactive) (.inl hact)) ht
  have hmasked := edge_run_of_enabled hu hactive' rfl
  exact ⟨rfl, rfl, rfl, hmasked⟩

theorem full_ne_bit (j : Chan) : 0xF#4 ≠ 1#4 <<< j.val := by
  revert j; decide

/-- With only channel j running and no other channel gated off, the "all" source can start every other channel. -/
theorem startable_all_but {j : Chan} (hrun : s.run = 1#4 <<< j.val)
    (hallowed : ∀ i : Chan, i ≠ j → s.startAllowed i = true) : startable 0xF#4 s = ~~~(1#4 <<< j.val) :=
  mask_ext fun i => by
    rw [startable_getLsbD, getLsbD_mask_full, hrun, getLsbD_mask_not, getLsbD_bit]
    by_cases hi : i = j
    · simp [hi]
    · simp [hi, hallowed i hi]

/-- Settles O47: the batch starts all channels but j, and its one fold sees EXEC change. -/
theorem triggerAllBatchNotifiesOnce : Obligations.TriggerAllBatchNotifiesOnce := by
  intro lvl j s t hexec hact hactive hrun hallowed hevt ht
  obtain rfl := next_unique (execEdgeAll_start (activeEdge_of_ne hactive) (.inl hact)) ht
  have hfull : s.run ||| startable 0xF#4 s = 0xF#4 := by
    rw [startable_all_but hrun hallowed, hrun]
    exact BitVec.or_not_self _
  have hchanged : 0xF#4 ≠ s.execState := by
    rw [hexec, hrun]
    exact full_ne_bit j
  have hnotify : notifyFor 0xF#4 s = [.notify 0x28#8] := if_pos ⟨hchanged, hevt⟩
  refine ⟨hfull, ?_⟩
  rw [afterStarts, hfull, hnotify, startable_all_but hrun hallowed]
  rfl

/-! ### Commands channel by channel (rules R178, R179) -/

theorem fitsWidth_four {v : Word} (h : v.toNat ≤ 0xF) : fitsWidth 4 v = true :=
  decide_eq_true (Nat.lt_succ_of_le h)

theorem maskOf_getLsbD (v : Word) (k : Src) : (maskOf v).getLsbD k.val = v.getLsbD k.val := by
  simp [maskOf]

/-- The channels that a command value names: those in the mask of a selected source. -/
theorem getLsbD_selected {v : Word} {j : Chan} :
    (unionOf (selectedMasks (maskOf v) s)).getLsbD j.val = true ↔
      ∃ k : Src, v.getLsbD k.val = true ∧ (s.tmask.get k).getLsbD j.val = true := by
  simp only [getLsbD_unionOf, selectedMasks, List.mem_map, mem_members, maskOf_getLsbD, exists_exists_and_eq_and]

/-- No notification names a channel. -/
theorem filter_names_notifyFor (j : Chan) (run' : Mask) (s : State) :
    (notifyFor run' s).filter (Event.names j) = [] := by
  rcases notifyFor_eq_nil_or_notify run' s with h | h <;> rw [h] <;> rfl

/-- Where each channel of `visits` is visited once, with an event of its own, channel j is named once or never. -/
theorem filter_names_map {f : Chan → Event} {j : Chan} (own : ∀ i, (f i).names j = (i == j)) {visits : List Chan}
    (once : visits.Nodup) : (visits.map f).filter (Event.names j) = if j ∈ visits then [f j] else [] := by
  have hown : Event.names j ∘ f = (· == j) := funext own
  rw [List.filter_map, hown, List.filter_beq, once.count]
  split <;> rfl

/-- The events of a batch that name channel j: one where j is among its channels, none otherwise. -/
theorem filter_names_batch {f : Chan → Event} {j : Chan} (own : ∀ i, (f i).names j = (i == j)) {g : Mask}
    {visits : List Chan} (visited : Visits g visits) (once : visits.Nodup) (run' : Mask) :
    (visits.map f ++ notifyFor run' s).filter (Event.names j) = if g.getLsbD j.val = true then [f j] else [] := by
  rw [List.filter_append, filter_names_notifyFor, List.append_nil, filter_names_map own once]
  simp only [visited j]

/-- A channel goes from stopped to running exactly when a batch of starts acts on it. -/
theorem started_iff_startable (m : Mask) (j : Chan) :
    (s.run ||| startable m s).getLsbD j.val = true ∧ s.run.getLsbD j.val = false ↔
      (startable m s).getLsbD j.val = true := by
  rw [getLsbD_mask_or, startable_getLsbD]
  cases s.run.getLsbD j.val <;> simp

/-- A channel goes from running to stopped exactly when a batch of stops acts on it. -/
theorem stopped_iff_masked (m : Mask) (j : Chan) :
    (s.run &&& ~~~(m &&& s.run)).getLsbD j.val = false ∧ s.run.getLsbD j.val = true ↔
      (m &&& s.run).getLsbD j.val = true := by
  simp only [getLsbD_mask_and, getLsbD_mask_not]
  cases s.run.getLsbD j.val <;> simp

/-- After a batch of starts the channels run that ran before, and the masked ones that are not gated off. -/
theorem getLsbD_run_or_startable (m : Mask) (j : Chan) :
    (s.run ||| startable m s).getLsbD j.val = true ↔
      s.run.getLsbD j.val = true ∨ (s.startAllowed j = true ∧ m.getLsbD j.val = true) := by
  rw [getLsbD_mask_or, startable_getLsbD]
  cases s.run.getLsbD j.val <;> simp [and_comm]

/-- After a batch of stops the channels run that ran before and are not masked. -/
theorem getLsbD_run_and_not (m : Mask) (j : Chan) :
    (s.run &&& ~~~(m &&& s.run)).getLsbD j.val = true ↔ s.run.getLsbD j.val = true ∧ ¬ m.getLsbD j.val = true := by
  simp only [getLsbD_mask_and, getLsbD_mask_not]
  cases s.run.getLsbD j.val <;> simp

/-- Settles O19: both commands are one batch over the union of the selected masks, which visits no channel twice. -/
theorem commandsActOnEachSelectedChannelOnce : Obligations.CommandsActOnEachSelectedChannelOnce := by
  intro v s t u j hv ht hu
  have hfits := fitsWidth_four hv
  obtain rfl := next_unique (execWrStart_accepted hfits) ht
  obtain rfl := next_unique (execWrStop_accepted hfits) hu
  simp only [← getLsbD_selected]
  refine ⟨getLsbD_run_or_startable _ j, getLsbD_run_and_not _ j, ?_, ?_⟩
  · refine (filter_names_batch (fun _ => rfl) (visits_startable _ s) (nodup_visitOrder ..) _).trans ?_
    exact if_congr (started_iff_startable _ j).symm rfl rfl
  · refine (filter_names_batch (fun _ => rfl) (visits_running _ s.run) (nodup_visitOrder ..) _).trans ?_
    exact if_congr (stopped_iff_masked _ j).symm rfl rfl

end

end Sys2Proof.Machine
end

section
/-! PROOFS of the family 43_register_writes. Every write is a `serveWrite`, so each statement is its header, its
legality test said in the spec's words (`legalFreq_iff`, `legalDuty_iff`, `fitsWidth_of_lt`), and the accepted or the
rejected outcome. The commands (O17, O18) take the closed forms of the family 10_state. -/

namespace Sys2Proof

/-! ### The headers of the writes (rules R81, R82, R100) -/

/-- KIND, RSV and LVL of a write are 0, so its header is the register address. -/
theorem mkHeader_write (a : Addr) : mkHeader 0#3 false a = BitVec.ofNat 16 a.toNat := by
  apply BitVec.eq_of_toNat_eq
  have happend : (mkHeader 0#3 false a).toNat = (0#8).toNat <<< 8 ||| a.toNat := BitVec.toNat_append 0#8 a
  have hwide : a.toNat < 2 ^ 16 := a.isLt.trans (by decide)
  rw [happend, BitVec.toNat_ofNat a.toNat, Nat.mod_eq_of_lt hwide]
  simp

theorem decode_write {i : Instr} {a : Addr} {v : Word} (hencode : encode i = wrRequest a v) :
    decode ⟨BitVec.ofNat 16 a.toNat, v⟩ = .ok i := by
  have hdecode := decodeOfEncodeIsTheInstruction i
  rwa [hencode, wrRequest, mkHeader_write] at hdecode

theorem decode_write_elem {i : Instr} {base : Addr} {k : Fin 4} {v : Word} (aligned : base.toNat % 4 = 0)
    (hencode : encode i = wrRequest (elemAddr base k) v) :
    decode ⟨BitVec.ofNat 16 (base.toNat + k.val), v⟩ = .ok i :=
  elemAddr_toNat aligned k ▸ decode_write hencode

end Sys2Proof

namespace Sys2Proof.Machine

section
variable {s : State}

/-! ### The two outcomes of a write (rules R84, R214) -/

/-- An accepted write answers (1, 0) in the state that its effect makes of a request without events. -/
theorem serveWrite_accepted {legal : Bool} {f : State → State} {u : State} (h : legal = true)
    (effect : f s.openRequest = u.openRequest) : serveWrite legal s f = .next (answered true 0#32 u) := by
  subst h
  rw [serveWrite_eq, if_pos rfl, effect]
  rfl

theorem serveWrite_outcome {legal : Bool} {f : State → State} {t : State} (h : serveWrite legal s f = .next t) :
    t.resp = some ⟨true, 0#32⟩ ∨ t = answered false 0#32 s := by
  cases legal with
  | true => cases h; exact .inl rfl
  | false => cases h; exact .inr rfl

/-- The operations of KIND 0 are the host writes. -/
theorem exec_of_isWrite {i : Instr} (hwrite : isWrite i) (s : State) :
    ∃ legal f, exec i s = serveWrite legal s f := by
  cases i with dsimp only [exec]
  | wrFreq | wrDuty | wrCount | wrMode | wrRealFreq | wrRealDuty | wrTrigMask | wrTrigMode | wrAllMode | wrStart
  | wrStop | wrEnable | wrConfirm | wrSingleShot | wrTrigState | wrRunState | wrExecState | wrEvtEn =>
    exact ⟨_, _, rfl⟩
  | rdFreq | rdDuty | rdCount | rdMode | rdRealFreq | rdRealDuty | rdTrigMask | rdTrigMode | rdAllMode | rdStart
  | rdStop | rdEnable | rdConfirm | rdSingleShot | rdTrigState | rdRunState | rdExecState | rdEvtEn | edge | edgeAll
  | pulse | powerDown | reset => exact absurd ((kindOf_mkHeader _ _ _).symm.trans hwrite) (by decide)

/-- Settles O22: every write is served by `serveWrite`, which has these two outcomes. -/
theorem rejectedWriteLeavesNoTrace : Obligations.RejectedWriteLeavesNoTrace := by
  intro i s t hwrite h
  obtain ⟨legal, f, hserve⟩ := exec_of_isWrite hwrite s
  exact serveWrite_outcome (hserve.symm.trans h)

/-- Settles O21: the five meanings accept no data word. -/
theorem writeReadOnlyIsRejected : Obligations.WriteReadOnlyIsRejected := by
  intro i v s
  dsimp only [exec]
  exact ⟨decode_write_elem (base := 0x10#8) rfl rfl, decode_write_elem (base := 0x14#8) rfl rfl,
    decode_write (a := 0x26#8) rfl, decode_write (a := 0x27#8) rfl, decode_write (a := 0x28#8) rfl,
    serveWrite_rejected rfl, serveWrite_rejected rfl, serveWrite_rejected rfl, serveWrite_rejected rfl,
    serveWrite_rejected rfl⟩

/-! ### Legal frequencies and duties (rules R90, R200, R201) -/

/-- A bound `a / b` on the value of a pattern, in units of 2^-149. -/
theorem lt_exactVal_iff {v : Word} (hsign : signOf v = false) (a : ℕ) {b : ℕ} (hb : 0 < b) :
    (a : ℚ) / b < exactVal v ↔ a * unitsPerOne < b * unitsOf v := by
  rw [exactVal_of_nonneg hsign, div_lt_div_iff₀ (by positivity) (by positivity), unitsPerOne, mul_comm b]
  norm_cast

theorem exactVal_lt_iff {v : Word} (hsign : signOf v = false) (a : ℕ) {b : ℕ} (hb : 0 < b) :
    exactVal v < (a : ℚ) / b ↔ b * unitsOf v < a * unitsPerOne := by
  rw [exactVal_of_nonneg hsign, div_lt_div_iff₀ (by positivity) (by positivity), unitsPerOne, mul_comm b]
  norm_cast

theorem legalFreq_iff (v : Word) :
    legalFreq v = true ↔ FinitePattern v ∧ 1 / 2 < exactVal v ∧ exactVal v ≤ 32768 := by
  cases hsign : signOf v with
  | true =>
    have hnonpos := exactVal_nonpos hsign
    exact iff_of_false (by simp [legalFreq, hsign]) fun ⟨_, hlow, _⟩ => by linarith
  | false =>
    have hlow := lt_exactVal_iff hsign 1 (b := 2) (by decide)
    have hhigh := lt_exactVal_iff hsign 32768 (b := 1) (by decide)
    norm_num only [Nat.cast_one, Nat.cast_ofNat, one_mul, div_one] at hlow hhigh
    simp only [legalFreq, hsign, Bool.and_eq_true, isFinite32_iff, Bool.not_false, decide_eq_true_eq, and_true,
      and_assoc, hlow, ← not_lt, hhigh]

theorem legalDuty_iff (v : Word) :
    legalDuty v = true ↔ FinitePattern v ∧ 1 / 10 < exactVal v ∧ exactVal v < 999 / 10 := by
  cases hsign : signOf v with
  | true =>
    have hnonpos := exactVal_nonpos hsign
    exact iff_of_false (by simp [legalDuty, hsign]) fun ⟨_, hlow, _⟩ => by linarith
  | false =>
    have hlow := lt_exactVal_iff hsign 1 (b := 10) (by decide)
    have hhigh := exactVal_lt_iff hsign 999 (b := 10) (by decide)
    norm_num only [Nat.cast_one, Nat.cast_ofNat, one_mul] at hlow hhigh
    simp only [legalDuty, hsign, Bool.and_eq_true, isFinite32_iff, Bool.not_false, decide_eq_true_eq, and_true,
      and_assoc, hlow, hhigh]

/-- Settles O11: the model's test is the spec's comparison of the exact value. -/
theorem writeFreqResult : Obligations.WriteFreqResult := by
  intro i v s
  dsimp only [exec]
  rw [← legalFreq_iff, Bool.not_eq_true]
  exact ⟨decode_write_elem (base := 0x00#8) rfl rfl,
    fun hlegal => serveWrite_accepted hlegal (by simp only [updateDerived, Quad.get_set_same]; rfl),
    serveWrite_rejected⟩

/-- Settles O12: the model's test is the spec's comparison of the exact value. -/
theorem writeDutyResult : Obligations.WriteDutyResult := by
  intro i v s
  dsimp only [exec]
  rw [← legalDuty_iff, Bool.not_eq_true]
  exact ⟨decode_write_elem (base := 0x04#8) rfl rfl,
    fun hlegal => serveWrite_accepted hlegal (by simp only [updateDerived, Quad.get_set_same]; rfl),
    serveWrite_rejected⟩

/-- A derivation that is current changes nothing when it is re-run (rule R202). -/
theorem updateDerived_eq_self {clock : ℕ} {i : Chan}
    (current : s.derived.get i = derive clock (s.freq.get i) (s.duty.get i)) : updateDerived clock i s = s := by
  rw [updateDerived, ← current, Quad.set_get]

/-- Settles O13: every nonzero value is accepted, and COUNT is no operand of the derivation. -/
theorem writeCountResult : Obligations.WriteCountResult := by
  intro i v s
  dsimp only [exec]
  exact ⟨decode_write_elem (base := 0x08#8) rfl rfl, fun hv => serveWrite_accepted (bne_iff_ne.2 hv) rfl,
    fun hv hcurrent => serveWrite_accepted (bne_iff_ne.2 hv)
      (updateDerived_eq_self (s := { s.openRequest with count := s.count.set i v }) hcurrent),
    fun hv => serveWrite_rejected (bne_eq_false_iff_eq.2 hv)⟩

/-! ### Register widths and fields (rules R61, R91 to R98) -/

theorem fitsWidth_of_lt {width : ℕ} {v : Word} (h : v.toNat < 2 ^ width) : fitsWidth width v = true :=
  decide_eq_true h

theorem not_fitsWidth_of_le {width : ℕ} {v : Word} (h : 2 ^ width ≤ v.toNat) : fitsWidth width v = false :=
  decide_eq_false h.not_gt

theorem maskOf_eq_ofNat (v : Word) : maskOf v = BitVec.ofNat 4 v.toNat := (BitVec.ofNat_toNat ..).symm

theorem getLsbD_eq_decide (v : Word) (k : ℕ) : v.getLsbD k = decide (v.toNat / 2 ^ k % 2 = 1) :=
  Nat.testBit_eq_decide_div_mod_eq

/-- The top bit of a value that fits k + 1 bits. -/
theorem getLsbD_top {v : Word} {k : ℕ} (h : v.toNat < 2 ^ (k + 1)) : v.getLsbD k = decide (2 ^ k ≤ v.toNat) := by
  have hquotient : v.toNat / 2 ^ k < 2 := Nat.div_lt_of_lt_mul (by rwa [pow_succ] at h)
  have hpos : 0 < v.toNat / 2 ^ k ↔ 2 ^ k ≤ v.toNat := Nat.div_pos_iff.trans (and_iff_right (by positivity))
  rw [getLsbD_eq_decide, Nat.mod_eq_of_lt hquotient, decide_eq_decide, ← hpos]
  generalize v.toNat / 2 ^ k = q at hquotient
  omega

/-- The codes of AACT (rule R94). -/
theorem allActionOf_eq (v : Word) : allActionOf v =
    if v.toNat % 4 = 0 then .triggerAll else if v.toNat % 4 = 1 then .triggerAllAndStop
    else if v.toNat % 4 = 2 then .enable else .enableAndStop := by
  have hlow : v.getLsbD 0 = decide (v.toNat % 4 % 2 = 1) := by
    rw [getLsbD_eq_decide, decide_eq_decide]; omega
  have hhigh : v.getLsbD 1 = decide (2 ≤ v.toNat % 4) := by
    rw [getLsbD_eq_decide, decide_eq_decide]; omega
  have hcode : v.toNat % 4 < 4 := Nat.mod_lt _ (by decide)
  rw [allActionOf, hlow, hhigh]
  interval_cases v.toNat % 4 <;> rfl

/-- Settles O20: each write assigns `v[3:0]` to its mask. -/
theorem writeGateMasksResult : Obligations.WriteGateMasksResult := by
  intro v s
  dsimp only [exec]
  rw [← maskOf_eq_ofNat]
  refine ⟨decode_write (a := 0x23#8) rfl, decode_write (a := 0x24#8) rfl, decode_write (a := 0x25#8) rfl,
    fun hv => ?_, fun hv => ?_⟩
  · have hfits := fitsWidth_four hv
    exact ⟨serveWrite_accepted hfits rfl, serveWrite_accepted hfits rfl, serveWrite_accepted hfits rfl⟩
  · have hwide : fitsWidth 4 v = false := not_fitsWidth_of_le hv
    exact ⟨serveWrite_rejected hwide, serveWrite_rejected hwide, serveWrite_rejected hwide⟩

/-- Settles O15: the write assigns `v[3:0]` to the mask of its source. -/
theorem writeTrigMaskResult : Obligations.WriteTrigMaskResult := by
  intro k v s
  dsimp only [exec]
  rw [← maskOf_eq_ofNat]
  exact ⟨decode_write_elem (base := 0x18#8) rfl rfl, fun hv => serveWrite_accepted (fitsWidth_four hv) rfl,
    fun hv => serveWrite_rejected (not_fitsWidth_of_le hv)⟩

/-- Settles O14: the values that fit one bit are 0 and 1. -/
theorem writeOneBitRegistersResult : Obligations.WriteOneBitRegistersResult := by
  intro i v s
  dsimp only [exec]
  refine ⟨decode_write_elem (base := 0x0C#8) rfl rfl, ?_, ?_, fun hv => serveWrite_rejected (not_fitsWidth_of_le hv),
    decode_write (a := 0x29#8) rfl, fun hv => ?_, fun hv => serveWrite_rejected (not_fitsWidth_of_le hv)⟩
  · rintro rfl
    exact serveWrite_accepted rfl rfl
  · rintro rfl
    exact serveWrite_accepted rfl rfl
  · have hbit : v.getLsbD 0 = decide (v.toNat = 1) := by
      rw [getLsbD_eq_decide, decide_eq_decide]; omega
    rw [← hbit]
    exact serveWrite_accepted (fitsWidth_of_lt (Nat.lt_succ_of_le hv)) rfl

/-- Settles O16: TACT and APOL are the top bits of their registers, TPOL the low bit, AACT the low two. -/
theorem writeTriggerModesResult : Obligations.WriteTriggerModesResult := by
  intro k v s
  dsimp only [exec]
  refine ⟨decode_write_elem (base := 0x1C#8) rfl rfl, fun hv => ?_,
    fun hv => serveWrite_rejected (not_fitsWidth_of_le hv), decode_write (a := 0x20#8) rfl, fun hv => ?_,
    fun hv => serveWrite_rejected (not_fitsWidth_of_le hv)⟩
  · have hfits : v.toNat < 2 ^ 2 := Nat.lt_succ_of_le hv
    have htpol : v.getLsbD 0 = decide (v.toNat % 2 = 1) := by
      rw [getLsbD_eq_decide, pow_zero, Nat.div_one]
    have htact : trigActionOf v = if 2 ≤ v.toNat then .startAndStop else .startOnly := by
      simp only [trigActionOf, getLsbD_top hfits, pow_one, decide_eq_true_eq]
    rw [← htpol, ← htact]
    exact serveWrite_accepted (fitsWidth_of_lt hfits) rfl
  · have hfits : v.toNat < 2 ^ 3 := Nat.lt_succ_of_le hv
    have hapol : v.getLsbD 2 = decide (4 ≤ v.toNat) := getLsbD_top hfits
    rw [← allActionOf_eq, ← hapol]
    exact serveWrite_accepted (fitsWidth_of_lt hfits) rfl

/-! ### The command registers (rules R207, R208) -/

/-- Settles O17: the command is one batch of starts; the latch is no field that a start reads. -/
theorem writeStartResult : Obligations.WriteStartResult := by
  intro v s
  dsimp only [exec]
  rw [← maskOf_eq_ofNat]
  exact ⟨decode_write (a := 0x21#8) rfl, fun hv => execWrStart_accepted (fitsWidth_four hv),
    fun hv => serveWrite_rejected (not_fitsWidth_of_le hv)⟩

/-- Settles O18: the command is one batch of stops; the latch is no field that a stop reads. -/
theorem writeStopResult : Obligations.WriteStopResult := by
  intro v s
  dsimp only [exec]
  rw [← maskOf_eq_ofNat]
  exact ⟨decode_write (a := 0x22#8) rfl, fun hv => execWrStop_accepted (fitsWidth_four hv),
    fun hv => serveWrite_rejected (not_fitsWidth_of_le hv)⟩

end

end Sys2Proof.Machine
end

section
/-! PROOFS of the family 44_register_reads. A read's header is 0x2000 plus the register's address (`decode_read`); its
response is the value that the register codes of rules R92 to R98 give. Most reads are a `serveRead`; the command
latches (O25) and the pin sample (O26) change one field besides. -/

namespace Sys2Proof

/-! ### The headers of the reads (rules R81, R82, R83, R100) -/

/-- KIND of a read is 1 and RSV and LVL are 0, so its header is 0x2000 plus the register address. -/
theorem mkHeader_read (a : Addr) : mkHeader 1#3 false a = BitVec.ofNat 16 (0x2000 + a.toNat) := by
  apply BitVec.eq_of_toNat_eq
  have happend : (mkHeader 1#3 false a).toNat = 0x20 <<< 8 ||| a.toNat := BitVec.toNat_append 0x20#8 a
  have hwide : 0x2000 + a.toNat < 2 ^ 16 := (Nat.add_lt_add_left a.isLt 0x2000).trans (by decide)
  have hsum : 0x20 <<< 8 ||| a.toNat = 0x2000 + a.toNat := (Nat.shiftLeft_add_eq_or_of_lt a.isLt 0x20).symm
  rw [happend, hsum, BitVec.toNat_ofNat, Nat.mod_eq_of_lt hwide]

theorem decode_read {i : Instr} {a : Addr} (hencode : encode i = rdRequest a) (d : Word) :
    decode ⟨BitVec.ofNat 16 (0x2000 + a.toNat), d⟩ = .ok i := by
  have hheader : (encode i).hdr = mkHeader 1#3 false a := congrArg Request.hdr hencode
  have hkind : kindOf (encode i).hdr ≠ 0#3 := by rw [hheader, kindOf_mkHeader]; decide
  rw [← mkHeader_read, ← hheader]
  exact Machine.decode_encode_hdr hkind d

theorem decode_read_elem {i : Instr} {base : Addr} {k : Fin 4} (aligned : base.toNat % 4 = 0)
    (hencode : encode i = rdRequest (elemAddr base k)) (d : Word) :
    decode ⟨BitVec.ofNat 16 (0x2000 + base.toNat + k.val), d⟩ = .ok i := by
  rw [Nat.add_assoc, ← elemAddr_toNat aligned k]
  exact decode_read hencode d

end Sys2Proof

namespace Sys2Proof.Machine

section
variable {s : State}

/-! ### The values of the registers (rules R92 to R98) -/

theorem chanModeWord_eq (m : ChanMode) : chanModeWord m = if m = .infinite then 1#32 else 0#32 := by
  cases m <;> rfl

theorem flagWord_eq (b : Bool) : flagWord b = if b = true then 1#32 else 0#32 := by
  cases b <;> rfl

theorem maskWord_eq_ofNat (m : Mask) : maskWord m = BitVec.ofNat 32 m.toNat := (BitVec.ofNat_toNat ..).symm

theorem pinWord_eq_ofNat (p : BitVec 5) : pinWord p = BitVec.ofNat 32 p.toNat := (BitVec.ofNat_toNat ..).symm

/-- TACT weighs 2 and TPOL 1 (rules R93, R247). -/
theorem trigModeWord_eq_ofNat (act : TrigAction) (pol : Bool) : trigModeWord act pol =
    BitVec.ofNat 32 ((if act = .startAndStop then 2 else 0) + (if pol = true then 1 else 0)) := by
  cases act <;> cases pol <;> rfl

/-- APOL weighs 4, above the two bits of AACT (rules R94, R248). -/
theorem allModeWord_eq_ofNat (pol : Bool) (act : AllAction) : allModeWord pol act =
    BitVec.ofNat 32 ((if pol = true then 4 else 0) + (allActionCode act).toNat) := by
  cases pol <;> cases act <;> rfl

/-! ### Reads that change nothing (rules R240 to R251, R254, R256, R257) -/

/-- A read answers the value of its register, and opening the request changes no register. -/
theorem serveRead_answered {value : State → Word} {w : Word} (h : value s.openRequest = w) :
    serveRead s value = .next (answered true w s) := by
  subst h; rfl

/-- Settles O23: of the six registers only MODE has a code of its own. -/
theorem readChannelRegistersResult : Obligations.ReadChannelRegistersResult := by
  intro i d s
  dsimp only [exec]
  exact ⟨decode_read_elem (base := 0x00#8) rfl rfl d, decode_read_elem (base := 0x04#8) rfl rfl d,
    decode_read_elem (base := 0x08#8) rfl rfl d, decode_read_elem (base := 0x0C#8) rfl rfl d,
    decode_read_elem (base := 0x10#8) rfl rfl d, decode_read_elem (base := 0x14#8) rfl rfl d,
    serveRead_answered rfl, serveRead_answered rfl, serveRead_answered rfl, serveRead_answered (chanModeWord_eq _),
    serveRead_answered rfl, serveRead_answered rfl⟩

/-- Settles O24: the masks are zero-extended, and TRIG_MODE and ALL_MODE put their fields together. -/
theorem readConfigurationAndStatusResult : Obligations.ReadConfigurationAndStatusResult := by
  intro k d s
  dsimp only [exec]
  exact ⟨decode_read_elem (base := 0x18#8) rfl rfl d, decode_read_elem (base := 0x1C#8) rfl rfl d,
    decode_read (a := 0x20#8) rfl d, decode_read (a := 0x23#8) rfl d, decode_read (a := 0x24#8) rfl d,
    decode_read (a := 0x25#8) rfl d, decode_read (a := 0x29#8) rfl d, decode_read (a := 0x27#8) rfl d,
    decode_read (a := 0x28#8) rfl d,
    serveRead_answered (maskWord_eq_ofNat _), serveRead_answered (trigModeWord_eq_ofNat _ _),
    serveRead_answered (allModeWord_eq_ofNat _ _), serveRead_answered (maskWord_eq_ofNat _),
    serveRead_answered (maskWord_eq_ofNat _), serveRead_answered (maskWord_eq_ofNat _),
    serveRead_answered (flagWord_eq _), serveRead_answered (maskWord_eq_ofNat _),
    serveRead_answered (maskWord_eq_ofNat _)⟩

/-! ### Reads with an effect (rules R252, R253, R255) -/

theorem execRdStart_eq (s : State) :
    execRdStart s = .next (answered true (maskWord s.startLatch) { s with startLatch := 0#4 }) := rfl

theorem execRdStop_eq (s : State) :
    execRdStop s = .next (answered true (maskWord s.stopLatch) { s with stopLatch := 0#4 }) := rfl

theorem execRdTrigState_eq (s : State) :
    execRdTrigState s = .next (answered true (pinWord (Config.pinLevels s.draws)) { s with draws := s.draws + 1 }) :=
  rfl

/-- Settles O25: the response is formed before the latch is cleared. -/
theorem readCommandLatchesClears : Obligations.ReadCommandLatchesClears := by
  intro d s
  dsimp only [exec]
  rw [← maskWord_eq_ofNat, ← maskWord_eq_ofNat]
  exact ⟨decode_read (a := 0x21#8) rfl d, decode_read (a := 0x22#8) rfl d, execRdStart_eq s, execRdStop_eq s⟩

/-- Settles O26: the sample is zero-extended, and only the count of samples advances. -/
theorem readTrigStateSamplesThePins : Obligations.ReadTrigStateSamplesThePins := by
  intro d s
  dsimp only [exec]
  rw [← pinWord_eq_ofNat]
  exact ⟨decode_read (a := 0x26#8) rfl d, execRdTrigState_eq s⟩

end

end Sys2Proof.Machine
end

section
/-! PROOFS of the family 60_exceptions. The port's law `takeRequest_spec` gives O5, and every way of serving a request
ends in a response (O6). For O45, two batches of stops one after the other leave what one batch over both sets leaves
(`afterStops_afterStops`), so the last pulse adds nothing to a stop of its channel but its REM. -/

namespace Sys2Proof.Machine

section
variable {s t : State}

/-! ### The port (rule R276) -/

theorem takeRequest_of_port_nil (h : s.port = []) : takeRequest s = none := by
  simp only [takeRequest, h]

/-- The port never waits: of a nonempty port one issuer's oldest request is taken. -/
theorem takeRequest_of_port_ne_nil (h : s.port ≠ []) : ∃ who r qs, takeFrom who s.port = some (r, qs) ∧
    takeRequest s = some (r, { s with port := qs, arb := s.arb + 1 }) :=
  (takeRequest_spec s).resolve_left fun ⟨hnil, _⟩ => h hnil

/-- Settles O5: the one request taken is its issuer's oldest, and `takeFrom` keeps the order of the others. -/
theorem portKeepsEachIssuersOrder : Obligations.PortKeepsEachIssuersOrder := by
  refine fun s => ⟨fun hnil => step_of_takeRequest_none (takeRequest_of_port_nil hnil), fun hne => ?_⟩
  obtain ⟨who, r, qs, htake, htaken⟩ := takeRequest_of_port_ne_nil hne
  obtain ⟨hwho, hothers⟩ := takeFrom_spec htake
  exact ⟨who, r, _, htaken, hwho, hothers, rfl⟩

/-! ### Completion (rules R73, R84, R270) -/

/-- The state holds the response of a request. -/
def Responded (t : State) : Prop := ∃ ok rdata, t.resp = some ⟨ok, rdata⟩

theorem serveWrite_responded {legal : Bool} {f : State → State} (h : serveWrite legal s f = .next t) :
    Responded t := by
  rcases serveWrite_outcome h with haccepted | rfl
  · exact ⟨_, _, haccepted⟩
  · exact ⟨_, _, rfl⟩

theorem serveRead_responded {value : State → Word} (h : serveRead s value = .next t) : Responded t := by
  cases h; exact ⟨_, _, rfl⟩

theorem serveBatch_responded {f : State → State} (h : serveBatch s f = .next t) : Responded t := by
  cases h; exact ⟨_, _, rfl⟩

/-- Every instruction responds. -/
theorem exec_responded {i : Instr} (h : exec i s = .next t) : Responded t := by
  cases i with dsimp only [exec] at h
  | wrFreq | wrDuty | wrCount | wrMode | wrRealFreq | wrRealDuty | wrTrigMask | wrTrigMode | wrAllMode | wrStart
  | wrStop | wrEnable | wrConfirm | wrSingleShot | wrTrigState | wrRunState | wrExecState | wrEvtEn =>
    exact serveWrite_responded h
  | rdFreq | rdDuty | rdCount | rdMode | rdRealFreq | rdRealDuty | rdTrigMask | rdTrigMode | rdAllMode
  | rdEnable | rdConfirm | rdSingleShot | rdRunState | rdExecState | rdEvtEn => exact serveRead_responded h
  | edge | edgeAll | pulse => exact serveBatch_responded h
  | rdStart | rdStop | rdTrigState | powerDown | reset => cases h; exact ⟨_, _, rfl⟩

/-- Every step answers a next state: an idle one, an illegal request's, or its instruction's. -/
theorem step_next (s : State) : ∃ t, step s = .next t := by
  cases htake : takeRequest s with
  | none => exact ⟨s, step_of_takeRequest_none htake⟩
  | some taken =>
    cases hdecode : decode taken.1 with
    | error e => exact ⟨_, step_of_decode_error htake hdecode⟩
    | ok i =>
      obtain ⟨t, ht⟩ := exec_next i taken.2
      exact ⟨t, (step_of_decode_ok htake hdecode).trans ht⟩

/-- A step that takes a request responds, whether the request is legal or not. -/
theorem step_responded {u : State} {r : Request} (htake : takeRequest s = some (r, u)) (h : step s = .next t) :
    Responded t := by
  cases hdecode : decode r with
  | error e =>
    obtain rfl := next_unique (step_of_decode_error htake hdecode) h
    exact ⟨_, _, rfl⟩
  | ok i => exact exec_responded ((step_of_decode_ok htake hdecode).symm.trans h)

/-- Settles O6: a nonempty port has a request to take, and it is answered. -/
theorem everyRequestCompletesWithAResponse : Obligations.EveryRequestCompletesWithAResponse := by
  refine fun s => ⟨step_next s, fun hne t h => ?_⟩
  obtain ⟨_, _, _, _, htaken⟩ := takeRequest_of_port_ne_nil hne
  exact step_responded htaken h

/-! ### POWER_DOWN (rule R290) -/

/-- Settles O48: the closed form of POWER_DOWN, and the decoder ignores the data word of its header. -/
theorem powerDownResult : Obligations.PowerDownResult := fun d s =>
  ⟨decode_encode_hdr (i := .powerDown) (by decide) d, execPowerDown_eq s⟩

/-! ### Stops one after another (rules R143, R144, R150) -/

/-- Two batches of stops leave what one batch over both sets leaves, but for the last request's events. -/
theorem afterStops_afterStops (g h : Mask) (v w : List Chan) (s : State) :
    afterStops h w (afterStops g v s) =
      { afterStops (g ||| h) [] s with events := (afterStops h w (afterStops g v s)).events } := by
  have hrun : s.run &&& ~~~g &&& ~~~h = s.run &&& ~~~(g ||| h) := congrArg State.run (halted_halted g h v w s)
  have henable : s.enable &&& ~~~(g &&& s.ssd) &&& ~~~(h &&& s.ssd) = s.enable &&& ~~~((g ||| h) &&& s.ssd) :=
    congrArg State.enable (halted_halted g h v w s)
  simp only [afterStops, hrun, henable]

/-- Stopping channel i first and then the running channels of `m` stops what the batch over `m` alone does. -/
theorem bit_or_remaining {m r : Mask} {i : Chan} (hm : m.getLsbD i.val = true) (hr : r.getLsbD i.val = true) :
    1#4 <<< i.val ||| (m &&& (r &&& ~~~(1#4 <<< i.val))) = m &&& r :=
  mask_ext fun j => by
    simp only [getLsbD_mask_or, getLsbD_mask_and, getLsbD_mask_not, getLsbD_bit]
    by_cases hj : j = i
    · subst hj; simp [hm, hr]
    · simp [hj]

/-- A later batch of stops over the rest changes RUN exactly when the whole set is more than channel i. -/
theorem remaining_changes_iff {m r : Mask} {i : Chan} (hm : m.getLsbD i.val = true) (hr : r.getLsbD i.val = true) :
    r &&& ~~~(1#4 <<< i.val) &&& ~~~(m &&& (r &&& ~~~(1#4 <<< i.val))) ≠ r &&& ~~~(1#4 <<< i.val) ↔
      m &&& r ≠ 1#4 <<< i.val := by
  have hkept : ∀ m r : Mask, r &&& ~~~(m &&& r) = r ↔ m &&& r = 0#4 := by decide
  have hbit : ∀ (g : Mask) (i : Chan), g.getLsbD i.val = true →
      (g &&& ~~~(1#4 <<< i.val) = 0#4 ↔ g = 1#4 <<< i.val) := by decide
  rw [Ne, hkept, ← BitVec.and_assoc, hbit _ i (by rw [getLsbD_mask_and, hm, hr]; rfl)]

theorem afterStops_run_getLsbD (g : Mask) (visits : List Chan) (j : Chan) :
    (afterStops g visits s).run.getLsbD j.val = (s.run.getLsbD j.val && !g.getLsbD j.val) := by
  rw [afterStops, getLsbD_mask_and, getLsbD_mask_not]

/-- Each stopped channel is halted once. -/
theorem count_tmrHalt_afterStops {g : Mask} {visits : List Chan} (visited : Visits g visits) (once : visits.Nodup)
    (j : Chan) : (afterStops g visits s).events.count (.tmrHalt j) = if g.getLsbD j.val = true then 1 else 0 := by
  have hnotify : .tmrHalt j ∉ notifyFor (s.run &&& ~~~g) s := by
    rcases notifyFor_eq_nil_or_notify (s.run &&& ~~~g) s with h | h <;> simp [h]
  rw [afterStops, List.count_append, List.count_eq_zero.2 hnotify,
    List.count_map_of_injective _ _ (fun _ _ => Event.tmrHalt.inj), once.count]
  simp only [visited j, Nat.add_zero]

/-- A batch of stops notifies once when its fold sees EXEC change, otherwise never. -/
theorem count_notify_afterStops (g : Mask) (visits : List Chan) :
    (afterStops g visits s).events.count (.notify 0x28#8) =
      if s.run &&& ~~~g ≠ s.execState ∧ s.evtEn = true then 1 else 0 := by
  rw [afterStops, List.count_append, List.count_eq_zero.2 (notify_notMem_map tmrHalt_isNotify visits _), notifyFor]
  split <;> rfl

/-- A batch that stops a running channel notifies once, if events are enabled. -/
theorem count_notify_afterStops_of_running {g : Mask} {visits : List Chan} {i : Chan} (hexec : s.execState = s.run)
    (hrun : s.run.getLsbD i.val = true) (hg : g.getLsbD i.val = true) :
    (afterStops g visits s).events.count (.notify 0x28#8) = if s.evtEn = true then 1 else 0 := by
  have hchanged : s.run &&& ~~~g ≠ s.execState := fun hsame => by
    have hi : (s.run &&& ~~~g).getLsbD i.val = s.run.getLsbD i.val := by rw [hsame, hexec]
    rw [getLsbD_mask_and, getLsbD_mask_not, hrun, hg] at hi
    cases hi
  rw [count_notify_afterStops]
  exact if_congr (and_iff_right hchanged) rfl rfl

/-! ### The last pulse and a STOP command (rules R35, R150, R277) -/

theorem getLsbD_bit_same (i : Chan) : (1#4 <<< i.val).getLsbD i.val = true := by
  rw [getLsbD_bit, decide_eq_true rfl]

theorem exec_lastPulse {i : Chan} (hrun : s.run.getLsbD i.val = true) (hmode : (s.latched.get i).mode = .count)
    (hrem : s.rem.get i = 1#32) (h : exec (.pulse i) s = .next t) :
    t = afterStops (1#4 <<< i.val) [i] { s with rem := s.rem.set i 0#32 } := by
  have hzero : s.rem.get i - 1#32 = 0#32 := sub_one_eq_zero_iff.2 hrem
  rw [← next_unique (execPulse_last hrun ⟨hmode, hzero⟩) h, pulsed, hzero]

theorem exec_pulse_of_stopped {i : Chan} (hexec : s.execState = s.run) (hrun : s.run.getLsbD i.val = false)
    (h : exec (.pulse i) s = .next t) : t = answered true 0#32 s := by
  rw [← next_unique (execPulse_stopped hrun) h, afterFoldOnly_of_execIsRun hexec]

theorem exec_wrStop_accepted {v : Word} (hv : v.toNat ≤ 0xF) (h : exec (.wrStop v) s = .next t) :
    t = afterStops (unionOf (selectedMasks (maskOf v) s) &&& s.run)
      (visitOrder (~~~s.run) (selectedMasks (maskOf v) s)) { s with stopLatch := maskOf v } :=
  (next_unique (execWrStop_accepted (fitsWidth_four hv)) h).symm

theorem count_tmrHalt_wrStop {v : Word} (hv : v.toNat ≤ 0xF) (h : exec (.wrStop v) s = .next t) (j : Chan) :
    t.events.count (.tmrHalt j) =
      if (unionOf (selectedMasks (maskOf v) s) &&& s.run).getLsbD j.val = true then 1 else 0 := by
  rw [exec_wrStop_accepted hv h]
  exact count_tmrHalt_afterStops (visits_running _ _) (nodup_visitOrder ..) j

/-- A STOP after the last pulse of channel i selects the same masks, and stops their running channels but i. -/
theorem wrStop_after_lastPulse {v : Word} {i : Chan} {p ps : State} (hv : v.toNat ≤ 0xF)
    (hp : p = afterStops (1#4 <<< i.val) [i] { s with rem := s.rem.set i 0#32 })
    (hps : exec (.wrStop v) p = .next ps) :
    ∃ visits, ps = afterStops (unionOf (selectedMasks (maskOf v) s) &&& (s.run &&& ~~~(1#4 <<< i.val))) visits
      (afterStops (1#4 <<< i.val) [i] { s with rem := s.rem.set i 0#32, stopLatch := maskOf v }) := by
  subst hp
  exact ⟨_, exec_wrStop_accepted hv hps⟩

/-- The last pulse before a STOP that names its channel leaves what the STOP alone leaves, but for the REM of that
channel and the last request's events. -/
theorem afterStops_after_lastPulse {m : Mask} {i : Chan} (hm : m.getLsbD i.val = true)
    (hrun : s.run.getLsbD i.val = true) (w w' : List Chan) (r : Word) {u : State}
    (hu : u = afterStops (m &&& (s.run &&& ~~~(1#4 <<< i.val))) w
      (afterStops (1#4 <<< i.val) [i] { s with rem := s.rem.set i r })) :
    u = { afterStops (m &&& s.run) w' s with rem := s.rem.set i r, events := u.events } := by
  rw [afterStops_afterStops, bit_or_remaining hm hrun] at hu
  subst hu
  rfl

/-- Settles O45: the pulse takes channel i out of the command's set, and the command leaves the pulse nothing to
stop. -/
theorem pulseAndStopNeverDoubleApply : Obligations.PulseAndStopNeverDoubleApply := by
  intro i v s p ps q qp hexec hrun hmode hrem hv hnamed hp hps hq hqp
  rw [← maskOf_eq_ofNat] at hnamed ⊢
  have hall : (unionOf (selectedMasks (maskOf v) s) &&& s.run).getLsbD i.val = true := by
    rw [getLsbD_mask_and, hnamed, hrun]
    rfl
  have hpEq := exec_lastPulse hrun hmode hrem hp
  obtain ⟨visits, hpsEq⟩ := wrStop_after_lastPulse hv hpEq hps
  have hpStopped : p.run.getLsbD i.val = false := by
    rw [hpEq, afterStops_run_getLsbD, getLsbD_bit_same, Bool.not_true, Bool.and_false]
  have hpsStopped : ps.run.getLsbD i.val = false := by
    rw [exec_wrStop_accepted hv hps, afterStops_run_getLsbD, hpStopped, Bool.false_and]
  have hpHalts : p.events.count (.tmrHalt i) = 1 := by
    rw [hpEq, count_tmrHalt_afterStops (visits_bit i) (List.nodup_singleton i), getLsbD_bit_same]
    rfl
  have hpsHalts : ps.events.count (.tmrHalt i) = 0 := by
    rw [count_tmrHalt_wrStop hv hps, getLsbD_mask_and, hpStopped, Bool.and_false]
    rfl
  have hqEq := exec_wrStop_accepted hv hq
  have hqStopped : q.run.getLsbD i.val = false := by
    rw [hqEq, afterStops_run_getLsbD, hall, Bool.not_true, Bool.and_false]
  obtain rfl := exec_pulse_of_stopped (by rw [hqEq]; rfl) hqStopped hqp
  refine ⟨?_, ?_, ?_, hpsStopped, ?_, ?_, ?_, rfl⟩
  · rw [List.count_append, hpHalts, hpsHalts]
  · rw [List.count_append, count_tmrHalt_wrStop hv hq, hall]
    rfl
  · rw [afterStops_after_lastPulse (s := { s with stopLatch := maskOf v }) hnamed hrun visits
      (visitOrder (~~~s.run) (selectedMasks (maskOf v) s)) 0#32 hpsEq, hqEq]
    rfl
  · rw [hpEq]
    exact count_notify_afterStops_of_running hexec hrun (getLsbD_bit_same i)
  · rw [hqEq]
    exact count_notify_afterStops_of_running (s := { s with stopLatch := maskOf v }) hexec hrun hall
  · rw [hpsEq, count_notify_afterStops]
    exact if_congr ((and_congr_left' (remaining_changes_iff hnamed hrun)).trans and_comm) rfl rfl

end

end Sys2Proof.Machine
end

section
/-! PROOFS of the family 70_reset_and_hazards. RESET and the initial state are one table (`deriveAll_loadDefaults`),
read register by register (O49, O50, O59). A read after an accepted write (O27) is `read_after_write` and, per
register, that the written word is the code of its own fields. -/

namespace Sys2Proof.Machine

section
variable {s t : State}

/-! ### The reset table (rules R300, R301) -/

theorem resetAt_freq_get (clock : ℕ) (i : Chan) : (State.resetAt clock).freq.get i = 0x41200000#32 :=
  Quad.get_all _ i

theorem resetAt_duty_get (clock : ℕ) (i : Chan) : (State.resetAt clock).duty.get i = 0x42480000#32 :=
  Quad.get_all _ i

/-- The derived values of the table are current: every channel has the one default FREQ and DUTY. -/
theorem resetAt_derived_get (clock : ℕ) (i : Chan) : (State.resetAt clock).derived.get i =
    derive clock ((State.resetAt clock).freq.get i) ((State.resetAt clock).duty.get i) := by
  rw [resetAt_freq_get, resetAt_duty_get]
  exact Quad.get_all _ i

/-- RESET leaves the initial state of its clock, but for the fields that are no element of the block. -/
theorem deriveAll_loadDefaults (s : State) : deriveAll s.clockHz (loadDefaults s) =
    { State.resetAt s.clockHz with
      port := s.port, arb := s.arb, draws := s.draws, resp := s.resp, events := s.events } := by
  have hderived : (State.resetAt s.clockHz).derived =
      .ofFn fun i => derive s.clockHz ((loadDefaults s).freq.get i) ((loadDefaults s).duty.get i) :=
    Quad.ext_get fun i => by rw [Quad.get_ofFn]; exact resetAt_derived_get s.clockHz i
  rw [deriveAll_eq, ← hderived]
  rfl

/-- Settles O49: RESET leaves the reset table, and the decoder ignores the data word of its header. -/
theorem resetResult : Obligations.ResetResult := by
  refine fun d s => ⟨decode_encode_hdr (i := .reset) (by decide) d, (execReset_eq s).trans ?_⟩
  rw [deriveAll_loadDefaults]

/-- Settles O50: each register is one column of the table; COUNT and TMASK differ from index to index. -/
theorem resetStateHoldsTheTable : Obligations.ResetStateHoldsTheTable := by
  have hcount : ∀ i : Chan, State.reset.count.get i = BitVec.ofNat 32 (10 * (i.val + 1)) := by decide
  have htmask : ∀ i : Chan, State.reset.tmask.get i = 1#4 <<< i.val := by decide
  exact ⟨fun i => ⟨Quad.get_all _ i, Quad.get_all _ i, hcount i, Quad.get_all _ i, Quad.get_all _ i,
      fun clock => resetAt_derived_get clock i, htmask i, Quad.get_all _ i, Quad.get_all _ i, Quad.get_all _ i,
      Quad.get_all _ i⟩,
    rfl, rfl, rfl, rfl, rfl, rfl, rfl, rfl, rfl, rfl, rfl, resetAt_32MHz, fun _ => rfl⟩

theorem wellState_resetAt {clock : ℕ} (hclock : 0 < clock) : WellState (State.resetAt clock) where
  clockPositive := hclock
  execIsRun := rfl
  freqLegal i := by rw [resetAt_freq_get]; decide
  dutyLegal i := by rw [resetAt_duty_get]; decide
  countNonzero := show ∀ i, State.reset.count.get i ≠ 0#32 by decide
  derivedCurrent := resetAt_derived_get clock
  pulsesLeft i hrun := absurd hrun (Bool.eq_false_iff.1 (getLsbD_mask_zero i))

/-- Settles O59: RUN is 0, so nothing is asked of LT_* and REM, and the derivation of RESET is current. -/
theorem resetIsWellState : Obligations.ResetIsWellState := by
  have hreset : ∀ clock : ℕ, 0 < clock →
      WellState (State.resetAt clock) ∧ RunsUsablePulses (State.resetAt clock) := fun _ hclock =>
    ⟨wellState_resetAt hclock, runsUsablePulses_of_stopped rfl⟩
  exact ⟨hreset, resetAt_32MHz ▸ hreset 32000000 (by decide)⟩

/-! ### A register that took a word returns it (rules R61, R91 to R98) -/

/-- A word that fits `width` bits is one of the 2^width zero-extended fields. -/
theorem of_fitsWidth {width : ℕ} {P : Word → Prop} (fields : ∀ field : BitVec width, P (field.setWidth 32)) {v : Word}
    (h : fitsWidth width v = true) : P v := by
  have hv : v.toNat < 2 ^ width := of_decide_eq_true h
  have hfield : (v.setWidth width).setWidth 32 = v := BitVec.eq_of_toNat_eq <| by
    rw [BitVec.toNat_setWidth, BitVec.toNat_setWidth, Nat.mod_eq_of_lt hv, Nat.mod_eq_of_lt v.isLt]
  exact hfield ▸ fields (v.setWidth width)

theorem maskWord_maskOf {v : Word} : fitsWidth 4 v = true → maskWord (maskOf v) = v :=
  of_fitsWidth (P := fun v => maskWord (maskOf v) = v) (by decide)

theorem chanModeWord_chanModeOf {v : Word} : fitsWidth 1 v = true → chanModeWord (chanModeOf v) = v :=
  of_fitsWidth (P := fun v => chanModeWord (chanModeOf v) = v) (by decide)

theorem flagWord_getLsbD {v : Word} : fitsWidth 1 v = true → flagWord (v.getLsbD 0) = v :=
  of_fitsWidth (P := fun v => flagWord (v.getLsbD 0) = v) (by decide)

theorem trigModeWord_of_fields {v : Word} :
    fitsWidth 2 v = true → trigModeWord (trigActionOf v) (v.getLsbD 0) = v :=
  of_fitsWidth (P := fun v => trigModeWord (trigActionOf v) (v.getLsbD 0) = v) (by decide)

theorem allModeWord_of_fields {v : Word} :
    fitsWidth 3 v = true → allModeWord (v.getLsbD 2) (allActionOf v) = v :=
  of_fitsWidth (P := fun v => allModeWord (v.getLsbD 2) (allActionOf v) = v) (by decide)

/-! ### Reads after writes (rule R310) -/

/-- A write that answers (1, 0) was accepted, and had its effect. -/
theorem serveWrite_of_accepted {legal : Bool} {f : State → State} (h : serveWrite legal s f = .next t)
    (hresp : t.resp = some ⟨true, 0#32⟩) : legal = true ∧ t = (f s.openRequest).respond true 0#32 := by
  cases legal with
  | true => cases h; exact ⟨rfl, rfl⟩
  | false => cases h; cases hresp

/-- `r` read in state `t` answers (1, v). -/
def ReadReturns (r : Instr) (t : State) (v : Word) : Prop := ∃ u, exec r t = .next u ∧ u.resp = some ⟨true, v⟩

/-- The read of a register whose value is `value` returns what an accepted write left in it. -/
theorem read_after_write (value : State → Word) {legal : Bool} {f : State → State} {r : Instr} {v : Word}
    (h : serveWrite legal s f = .next t) (hresp : t.resp = some ⟨true, 0#32⟩) (hread : exec r t = serveRead t value)
    (written : legal = true → value ((f s.openRequest).respond true 0#32).openRequest = v) :
    ReadReturns r t v := by
  obtain ⟨hlegal, rfl⟩ := serveWrite_of_accepted h hresp
  exact ⟨_, hread.trans (serveRead_answered (written hlegal)), rfl⟩

/-- The start command leaves its word in the latch, whatever it starts (rules R207, R252). -/
theorem rdStart_after_wrStart {v : Word} (h : execWrStart v s = .next t) (hresp : t.resp = some ⟨true, 0#32⟩) :
    ReadReturns .rdStart t v := by
  obtain ⟨hfits, _⟩ := serveWrite_of_accepted h hresp
  have hlatch : t.startLatch = maskOf v := by rw [← next_unique (execWrStart_accepted hfits) h]; rfl
  exact ⟨_, execRdStart_eq t, by rw [hlatch, maskWord_maskOf hfits]; rfl⟩

/-- The stop command leaves its word in the latch, whatever it stops (rules R208, R253). -/
theorem rdStop_after_wrStop {v : Word} (h : execWrStop v s = .next t) (hresp : t.resp = some ⟨true, 0#32⟩) :
    ReadReturns .rdStop t v := by
  obtain ⟨hfits, _⟩ := serveWrite_of_accepted h hresp
  have hlatch : t.stopLatch = maskOf v := by rw [← next_unique (execWrStop_accepted hfits) h]; rfl
  exact ⟨_, execRdStop_eq t, by rw [hlatch, maskWord_maskOf hfits]; rfl⟩

/-- Settles O27: the accepted word fits its register, so the fields stored give it back. -/
theorem readAfterWriteReturnsTheValue : Obligations.ReadAfterWriteReturnsTheValue := by
  intro i r v s t hread h hresp
  cases i with (dsimp only [exec] at h; cases hread)
  | wrFreq c v => exact read_after_write (·.freq.get c) h hresp rfl fun _ => Quad.get_set_same s.freq c v
  | wrDuty c v => exact read_after_write (·.duty.get c) h hresp rfl fun _ => Quad.get_set_same s.duty c v
  | wrCount c v => exact read_after_write (·.count.get c) h hresp rfl fun _ => Quad.get_set_same s.count c v
  | wrMode c v =>
    exact read_after_write (fun u => chanModeWord (u.mode.get c)) h hresp rfl fun hfits =>
      (congrArg chanModeWord (Quad.get_set_same s.mode c _)).trans (chanModeWord_chanModeOf hfits)
  | wrTrigMask k v =>
    exact read_after_write (fun u => maskWord (u.tmask.get k)) h hresp rfl fun hfits =>
      (congrArg maskWord (Quad.get_set_same s.tmask k _)).trans (maskWord_maskOf hfits)
  | wrTrigMode k v =>
    exact read_after_write (fun u => trigModeWord (u.tact.get k) (u.tpol.get k)) h hresp rfl fun hfits =>
      (congrArg₂ trigModeWord (Quad.get_set_same s.tact k _) (Quad.get_set_same s.tpol k _)).trans
        (trigModeWord_of_fields hfits)
  | wrAllMode v => exact read_after_write (fun u => allModeWord u.apol u.aact) h hresp rfl allModeWord_of_fields
  | wrStart v => exact rdStart_after_wrStart h hresp
  | wrStop v => exact rdStop_after_wrStop h hresp
  | wrEnable v => exact read_after_write (maskWord ·.enable) h hresp rfl maskWord_maskOf
  | wrConfirm v => exact read_after_write (maskWord ·.confirm) h hresp rfl maskWord_maskOf
  | wrSingleShot v => exact read_after_write (maskWord ·.ssd) h hresp rfl maskWord_maskOf
  | wrEvtEn v => exact read_after_write (flagWord ·.evtEn) h hresp rfl flagWord_getLsbD

end

end Sys2Proof.Machine
end
